-- ==== Sys2Proof/Word.lean ====
section
/-! DEFINITION. The word types of the radio control block. -/

namespace Sys2Proof

/-- One byte of the serial bus or of a buffer operand (20_memory.md R51, R57). -/
abbrev Byte := BitVec 8

/-- A scalar operand or a context register: unsigned 32 bits (10_state.md R22 to R24, R32). -/
abbrev Word := BitVec 32

/-- The level of one of the two control lines (10_state.md R30). -/
inductive Level where
  | low
  | high
deriving DecidableEq, Repr, Inhabited

end Sys2Proof
end

