-- ==== Sys2Proof/Syntax.lean ====
section
/-! DEFINITION. The operations of the RCB and the wire frames it sends: one constructor per row of
spec/opcode_table.json, and the types of their operands. -/

namespace Sys2Proof

/-- The chip's operating state, as an operand of SET_STATE (10_state.md R34). -/
inductive OpState where
  | sleep
  | spiActive
  | ready
  | ready2
  | txTune
  | transmitting
deriving DecidableEq, Repr, Inhabited

/-- The six operating states in the order of 10_state.md R34. -/
def OpState.all : List OpState :=
  [.sleep, .spiActive, .ready, .ready2, .txTune, .transmitting]

/-- The modulation mode of RadioParameters; it has no numeric code (10_state.md R27). -/
inductive ModMode where
  | cw
  | ook
  | fskDirect
  | fskBuffered
deriving DecidableEq, Repr, Inhabited

/-- The operand of READ_CONTEXT (30_encoding.md R76, 45_system_configuration.md R167). -/
inductive ContextSel where
  | refclk
  | carrier
  | deviation
deriving DecidableEq, Repr, Inhabited

/-- ChipParameters (10_state.md R26). -/
structure ChipParameters where
  gpio0 : Byte
  gpio1 : Byte
  gpio2 : Byte
  gpio3 : Byte
  drive : Byte
  refclkHz : Word
deriving DecidableEq, Repr, Inhabited

/-- RadioParameters (10_state.md R27). The width of `power` is the model's own (log entry 17): every value above
127 is rejected by CONFIGURE. -/
structure RadioParameters where
  carrierHz : Word
  bitrateBps : Word
  datarateRaw : Word
  power : Word
  mode : ModMode
  offsetSeed : BitVec 16
  deviationHz : Word
deriving DecidableEq, Repr, Inhabited

/-- The rows of spec/opcode_table.json: the 28 host operations (30_encoding.md R77) and the 9 wire frames
(30_encoding.md R79 to R87). -/
inductive Instr where
  -- 45_system_configuration.md
  | configure (cp : ChipParameters) (rp : RadioParameters)
  | setPower (level : Word)
  | readContext (sel : ContextSel)
  -- 40_bus_transport.md
  | sendCommand (opcode : Word) (payload : List Byte)
  | waitCts (limit : Word)
  | readResponse (length limit : Word)
  -- 41_state_controller.md
  | setState (target : OpState)
  | enableTx
  | inhibitTx
  | disableTx
  -- 42_frequency_synthesizer.md
  | selectOutdiv (freqHz : Word)
  | selectBand (freqHz : Word)
  | setTxFrequency (freqHz : Word)
  | calcDeviation (deviationHz : Word)
  | setDeviation (deviationHz : Word)
  | setReferenceClock (hz : Word)
  | setFrequencyOffset (offset : Word)
  -- 43_fifo_tx_engine.md
  | checkClearUnderflow
  | clearFifo
  | startTx (buffer : List Byte)
  | waitTxComplete (timeoutMs : Word)
  | requestDeviceState
  -- 44_modulation_encoder.md
  | fsk4Write (buffer : List Byte)
  | fsk4WriteByte (b : Word)
  | fsk4Preamble (n : Word)
  | fsk4Idle
  | cwMark (units : Word)
  | cwSpace (units : Word)
  -- 30_encoding.md, wire side
  | wfSetProperty (group start : Byte) (values : List Byte)
  | wfPoll
  | wfResp (length : Nat)
  | wfChangeState (target : OpState)
  | wfFifoReset
  | wfIntStatus
  | wfWriteTxFifo (data : List Byte)
  | wfStartTx (total : BitVec 16)
  | wfReqState
deriving DecidableEq, Repr

/-- Whether a row is a host operation (format HOP) and not a wire frame (30_encoding.md R75). -/
def Instr.isHostOp : Instr → Bool
  | .configure _ _ | .setPower _ | .readContext _
  | .sendCommand _ _ | .waitCts _ | .readResponse _ _
  | .setState _ | .enableTx | .inhibitTx | .disableTx
  | .selectOutdiv _ | .selectBand _ | .setTxFrequency _ | .calcDeviation _
  | .setDeviation _ | .setReferenceClock _ | .setFrequencyOffset _
  | .checkClearUnderflow | .clearFifo | .startTx _ | .waitTxComplete _ | .requestDeviceState
  | .fsk4Write _ | .fsk4WriteByte _ | .fsk4Preamble _ | .fsk4Idle | .cwMark _ | .cwSpace _ => true
  | .wfSetProperty _ _ _ | .wfPoll | .wfResp _ | .wfChangeState _ | .wfFifoReset
  | .wfIntStatus | .wfWriteTxFifo _ | .wfStartTx _ | .wfReqState => false

end Sys2Proof
end

