-- ==== Sys2Proof/Config.lean ====
section
/-! DEFINITION. What an implementation fixes (00_scope.md R8), and the values the spec leaves free. -/

namespace Sys2Proof

/-- The events of the trace (00_scope.md R12). -/
inductive Event where
  | selL
  | selH
  | tx (b : Byte)
  | rx (b : Byte)
  | dlyMs (t : Nat)
  | sdn (l : Level)
deriving DecidableEq, Repr

/-- The events CFG_RESET_SEQ may hold: `SDN(l)` and `DLY_MS(t)` only (45_system_configuration.md R165). -/
inductive PinEvent where
  | sdn (l : Level)
  | dlyMs (t : Nat)
deriving DecidableEq, Repr

/-- A pin event as an event of the trace. -/
def PinEvent.toEvent : PinEvent → Event
  | .sdn l => .sdn l
  | .dlyMs t => .dlyMs t

/-- A command frame: opcode byte and payload (30_encoding.md R78). -/
structure CommandFrame where
  opcode : Byte
  payload : List Byte
deriving DecidableEq, Repr

/-- The implementation parameters of 00_scope.md R8 and the 32 wire constants of 30_encoding.md R88 and R94. Three
constraints are kept by the types: `W_UF_INDEX` is 0 to 6, `W_RDS_RESP_LEN` and `WPM` are at least 1. -/
structure Params where
  /-- CTS_LIMIT -/
  ctsLimit : Nat
  /-- T_SYM_MS -/
  tSymMs : Nat
  /-- WPM -/
  wpm : ℕ+
  wReadCmdBuff : Byte
  wSetProperty : Byte
  wChangeState : Byte
  wFifoInfo : Byte
  wFifoResetArg : List Byte
  wGetIntStatus : Byte
  wIntClearPayload : List Byte
  wUfIndex : Fin 7
  wUfMask : Byte
  wWriteTxFifo : Byte
  wStartTx : Byte
  wTxCondSleep : Byte
  wRequestDeviceState : Byte
  wRdsRespLen : ℕ+
  wStateMask : Byte
  wGClkgen : Byte
  wIClkgenBand : Byte
  wHpBit : Byte
  wGFreq : Byte
  wIFreqInte : Byte
  wGDev : Byte
  wIDev : Byte
  wGOffset : Byte
  wIOffset : Byte
  wGPa : Byte
  wIPaPwr : Byte
  wStSleep : Byte
  wStSpiActive : Byte
  wStReady : Byte
  wStReady2 : Byte
  wStTxTune : Byte
  wStTx : Byte
  /-- CFG_RESET_SEQ after its first event, which is `SDN(0)`. -/
  resetTail : List PinEvent
  /-- The values of CFG_POWERUP_FRAMES that are already known; `Config.freePowerupFrames` gives the others. -/
  powerupTable : List (ChipParameters × List CommandFrame)
  /-- The values of CFG_SETUP_FRAMES that are already known; `Config.freeSetupFrames` gives the others. -/
  setupTable : List ((ChipParameters × RadioParameters) × List CommandFrame)
deriving DecidableEq, Repr, Inhabited

/-- The wire code of an operating state (30_encoding.md R94). -/
def Params.stateCode (p : Params) : OpState → Byte
  | .sleep => p.wStSleep
  | .spiActive => p.wStSpiActive
  | .ready => p.wStReady
  | .ready2 => p.wStReady2
  | .txTune => p.wStTxTune
  | .transmitting => p.wStTx

/-- The constraints of 30_encoding.md R88 and R94 that the types of `Params` do not already keep
(93_implementation_defined.md X4: hypotheses on the configuration record). -/
abbrev Params.Legal (p : Params) : Prop :=
  (∃ k : Fin 8, p.wUfMask = 1#8 <<< k.val) ∧
  p.wStateMask ≠ 0#8 ∧
  p.wHpBit &&& 7#8 = 0#8 ∧
  p.wIFreqInte.toNat ≤ 250 ∧ p.wIDev.toNat ≤ 253 ∧ p.wIOffset.toNat ≤ 254 ∧
  (OpState.all.map p.stateCode).Nodup ∧
  (∀ c ∈ OpState.all.map p.stateCode, c &&& p.wStateMask = c)

/-- The first bytes of the command frames differ, so that a reader of the trace can tell the frames apart. The spec
does not require it; nothing that runs depends on it (log entry 16). -/
abbrev Params.OpcodesDistinct (p : Params) : Prop :=
  [p.wSetProperty, p.wChangeState, p.wFifoInfo, p.wGetIntStatus, p.wWriteTxFifo, p.wStartTx,
    p.wRequestDeviceState].Nodup

/-- The default values of 30_encoding.md R88, with the reference values of 00_scope.md R8, `WPM = 20`,
`CFG_RESET_SEQ = [SDN(0)]` and no known set-up frames. PRESUMED (log entry 11): general knowledge, not in the
source. Only tests and witnesses use it. -/
def Params.reference : Params where
  ctsLimit := 65535
  tSymMs := 10
  wpm := 20
  wReadCmdBuff := 0x44#8
  wSetProperty := 0x11#8
  wChangeState := 0x34#8
  wFifoInfo := 0x15#8
  wFifoResetArg := [0x01#8]
  wGetIntStatus := 0x20#8
  wIntClearPayload := [0x00#8, 0x00#8, 0x00#8]
  wUfIndex := 6
  wUfMask := 0x20#8
  wWriteTxFifo := 0x66#8
  wStartTx := 0x31#8
  wTxCondSleep := 0x10#8
  wRequestDeviceState := 0x33#8
  wRdsRespLen := 2
  wStateMask := 0x0F#8
  wGClkgen := 0x20#8
  wIClkgenBand := 0x51#8
  wHpBit := 0x08#8
  wGFreq := 0x40#8
  wIFreqInte := 0x00#8
  wGDev := 0x20#8
  wIDev := 0x0A#8
  wGOffset := 0x20#8
  wIOffset := 0x0D#8
  wGPa := 0x22#8
  wIPaPwr := 0x01#8
  wStSleep := 1#8
  wStSpiActive := 2#8
  wStReady := 3#8
  wStReady2 := 4#8
  wStTxTune := 5#8
  wStTx := 7#8
  resetTail := []
  powerupTable := []
  setupTable := []

/-- The parameters of the machine that leaves reset: free (00_scope.md R8; log entry 9). -/
opaque Config.params : Params

/-- The byte the chip answers to the `n`-th read that `State.rx` does not hold: free (10_state.md R33; log entry 3). -/
opaque Config.chipByte (n : Nat) : Byte

/-- RET after the `n`-th operation, where its rule does not assign it: free (93_implementation_defined.md X2; log
entry 4). -/
opaque Config.freeRet (n : Nat) : Word

/-- RESP after the `n`-th operation, where its rule does not assign it: free (93_implementation_defined.md X2; log
entry 4). -/
opaque Config.freeResp (n : Nat) : List Byte

/-- CFG_POWERUP_FRAMES where the parameters do not list its value: free (45_system_configuration.md R165; log
entry 10). -/
opaque Config.freePowerupFrames (cp : ChipParameters) : List CommandFrame

/-- CFG_SETUP_FRAMES where the parameters do not list its value: free (45_system_configuration.md R165; log
entry 10). -/
opaque Config.freeSetupFrames (cp : ChipParameters) (rp : RadioParameters) : List CommandFrame

end Sys2Proof
end

