-- ==== Sys2Proof/WellFormed.lean ====
section
/-! DEFINITION. Which terms of `Instr` are instructions of the spec. -/

namespace Sys2Proof

/-- A host operation takes every value of its operands: what does not fit is checked when it runs
(30_encoding.md R76). A set-property frame holds 1 to 6 values (R79); a write-FIFO frame holds at most 64 data
bytes (R85). -/
def Instr.wellFormed : Instr → Bool
  | .wfSetProperty _ _ values => decide (1 ≤ values.length ∧ values.length ≤ 6)
  | .wfWriteTxFifo data => decide (data.length ≤ 64)
  | .configure _ _ | .setPower _ | .readContext _
  | .sendCommand _ _ | .waitCts _ | .readResponse _ _
  | .setState _ | .enableTx | .inhibitTx | .disableTx
  | .selectOutdiv _ | .selectBand _ | .setTxFrequency _ | .calcDeviation _
  | .setDeviation _ | .setReferenceClock _ | .setFrequencyOffset _
  | .checkClearUnderflow | .clearFifo | .startTx _ | .waitTxComplete _ | .requestDeviceState
  | .fsk4Write _ | .fsk4WriteByte _ | .fsk4Preamble _ | .fsk4Idle | .cwMark _ | .cwSpace _ => true
  | .wfPoll | .wfResp _ | .wfChangeState _ | .wfFifoReset
  | .wfIntStatus | .wfStartTx _ | .wfReqState => true

end Sys2Proof
end

