-- ==== Sys2Proof/Decode.lean ====
section
/-! DEFINITION. The two encodings of 30_encoding.md: the host's operation request, and the wire frame as a reader of
the trace sees it; decoding both, and encoding both. -/

namespace Sys2Proof

/-- One operation request: the operation code and the operand ports (10_state.md R32, 30_encoding.md R76). -/
structure Request where
  op : BitVec 8
  arg0 : Word
  arg1 : Word
  buf : List Byte
  cp : ChipParameters
  rp : RadioParameters
  target : OpState
  sel : ContextSel
deriving DecidableEq, Repr

/-- A request whose ports hold zeros (an empty buffer, the first name of each named type). -/
def Request.bare (op : BitVec 8) : Request where
  op := op
  arg0 := 0
  arg1 := 0
  buf := []
  cp := ⟨0, 0, 0, 0, 0, 0⟩
  rp := ⟨0, 0, 0, 0, .cw, 0, 0⟩
  target := .sleep
  sel := .refclk

/-- One byte time of a frame: a byte the RCB writes, or a byte it reads (30_encoding.md R78, R80, R81). -/
inductive Slot where
  | out (b : Byte)
  | inn
deriving DecidableEq, Repr

/-- What a decoder is given: a host request, or a wire frame (30_encoding.md R75). -/
inductive Code where
  | host (r : Request)
  | wire (f : List Slot)
deriving DecidableEq, Repr

/-- Why a request or a frame is no row of the table. -/
inductive DecodeError where
  /-- an OP value that selects no operation (30_encoding.md R91) -/
  | reservedOp (op : BitVec 8)
  /-- written and read bytes mixed as in no frame of 30_encoding.md R92 -/
  | mixedFrame
  /-- a command frame whose opcode is none of the RCB's -/
  | unknownOpcode (opcode : Byte)
  /-- a command frame of a known opcode whose payload is not the frame's -/
  | badPayload (opcode : Byte)
deriving DecidableEq, Repr

/-! ## Host side -/

/-- The operation codes of 30_encoding.md R77, each reading the ports it names and ignoring the others (R76). -/
def decodeRequest (r : Request) : Except DecodeError Instr :=
  match r.op with
  | 0x01#8 => .ok (.configure r.cp r.rp)
  | 0x02#8 => .ok (.setPower r.arg0)
  | 0x03#8 => .ok (.readContext r.sel)
  | 0x10#8 => .ok (.sendCommand r.arg0 r.buf)
  | 0x11#8 => .ok (.waitCts r.arg0)
  | 0x12#8 => .ok (.readResponse r.arg0 r.arg1)
  | 0x20#8 => .ok (.setState r.target)
  | 0x21#8 => .ok .enableTx
  | 0x22#8 => .ok .inhibitTx
  | 0x23#8 => .ok .disableTx
  | 0x30#8 => .ok (.selectOutdiv r.arg0)
  | 0x31#8 => .ok (.selectBand r.arg0)
  | 0x32#8 => .ok (.setTxFrequency r.arg0)
  | 0x33#8 => .ok (.calcDeviation r.arg0)
  | 0x34#8 => .ok (.setDeviation r.arg0)
  | 0x35#8 => .ok (.setReferenceClock r.arg0)
  | 0x36#8 => .ok (.setFrequencyOffset r.arg0)
  | 0x40#8 => .ok .checkClearUnderflow
  | 0x41#8 => .ok .clearFifo
  | 0x42#8 => .ok (.startTx r.buf)
  | 0x43#8 => .ok (.waitTxComplete r.arg0)
  | 0x44#8 => .ok .requestDeviceState
  | 0x50#8 => .ok (.fsk4Write r.buf)
  | 0x51#8 => .ok (.fsk4WriteByte r.arg0)
  | 0x52#8 => .ok (.fsk4Preamble r.arg0)
  | 0x53#8 => .ok .fsk4Idle
  | 0x54#8 => .ok (.cwMark r.arg0)
  | 0x55#8 => .ok (.cwSpace r.arg0)
  | op => .error (.reservedOp op)

/-! ## Wire side -/

/-- The bytes of a frame that reads nothing; `none` where it reads. -/
def writtenBytes : List Slot → Option (List Byte)
  | [] => some []
  | .out b :: f => (writtenBytes f).map (b :: ·)
  | .inn :: _ => none

/-- The operating state whose wire code a byte is (30_encoding.md R94). -/
def stateOfCode (p : Params) (c : Byte) : Option OpState :=
  OpState.all.find? fun t => p.stateCode t == c

/-- The set-property frame's payload `[group, count, start_index, value...]` (30_encoding.md R79). -/
def decodeSetProperty (p : Params) : List Byte → Except DecodeError Instr
  | group :: count :: start :: values =>
    if count.toNat = values.length ∧ 1 ≤ values.length ∧ values.length ≤ 6 then
      .ok (.wfSetProperty group start values)
    else .error (.badPayload p.wSetProperty)
  | _ => .error (.badPayload p.wSetProperty)

/-- The change-state frame's payload, one state code (30_encoding.md R82). -/
def decodeChangeState (p : Params) : List Byte → Except DecodeError Instr
  | [c] =>
    match stateOfCode p c with
    | some t => .ok (.wfChangeState t)
    | none => .error (.badPayload p.wChangeState)
  | _ => .error (.badPayload p.wChangeState)

/-- The start-transmit frame's payload: channel 0, the sleep flag, the total big-endian (30_encoding.md R86). -/
def decodeStartTx (p : Params) : List Byte → Except DecodeError Instr
  | [channel, flag, hi, lo] =>
    if channel = 0#8 ∧ flag = p.wTxCondSleep then .ok (.wfStartTx (hi ++ lo))
    else .error (.badPayload p.wStartTx)
  | _ => .error (.badPayload p.wStartTx)

/-- A command frame, told by its first byte (30_encoding.md R92). -/
def decodeCommand (p : Params) (opcode : Byte) (payload : List Byte) : Except DecodeError Instr :=
  if opcode = p.wSetProperty then decodeSetProperty p payload
  else if opcode = p.wChangeState then decodeChangeState p payload
  else if opcode = p.wFifoInfo then
    if payload = p.wFifoResetArg then .ok .wfFifoReset else .error (.badPayload opcode)
  else if opcode = p.wGetIntStatus then
    if payload = p.wIntClearPayload then .ok .wfIntStatus else .error (.badPayload opcode)
  else if opcode = p.wWriteTxFifo then
    if payload.length ≤ 64 then .ok (.wfWriteTxFifo payload) else .error (.badPayload opcode)
  else if opcode = p.wStartTx then decodeStartTx p payload
  else if opcode = p.wRequestDeviceState then
    if payload = [] then .ok .wfReqState else .error (.badPayload opcode)
  else .error (.unknownOpcode opcode)

/-- A wire frame: all bytes read (or none) is a response, the poll opcode and one byte read is a poll, all bytes
written is a command frame (30_encoding.md R92). -/
def decodeWire (p : Params) (f : List Slot) : Except DecodeError Instr :=
  if f.all (· == .inn) then .ok (.wfResp f.length)
  else if f = [.out p.wReadCmdBuff, .inn] then .ok .wfPoll
  else match writtenBytes f with
    | some (opcode :: payload) => decodeCommand p opcode payload
    | _ => .error .mixedFrame

/-- The instruction a code stands for, or the reason why it stands for none. -/
def decode (p : Params) : Code → Except DecodeError Instr
  | .host r => decodeRequest r
  | .wire f => decodeWire p f

/-! ## The encoder -/

/-- A command frame's slots (30_encoding.md R78). -/
def commandSlots (bytes : List Byte) : List Slot := bytes.map .out

/-- The code of an instruction: its OP value with the ports it names (30_encoding.md R77), or its frame (R79 to R87).
For WF_INT_STATUS and WF_REQ_STATE the frame is the command frame; the poll loop and the response frame that follow
it are frames of their own. -/
def encode (p : Params) : Instr → Code
  | .configure cp rp => .host { Request.bare 0x01#8 with cp := cp, rp := rp }
  | .setPower level => .host { Request.bare 0x02#8 with arg0 := level }
  | .readContext sel => .host { Request.bare 0x03#8 with sel := sel }
  | .sendCommand opcode payload => .host { Request.bare 0x10#8 with arg0 := opcode, buf := payload }
  | .waitCts limit => .host { Request.bare 0x11#8 with arg0 := limit }
  | .readResponse length limit => .host { Request.bare 0x12#8 with arg0 := length, arg1 := limit }
  | .setState target => .host { Request.bare 0x20#8 with target := target }
  | .enableTx => .host (Request.bare 0x21#8)
  | .inhibitTx => .host (Request.bare 0x22#8)
  | .disableTx => .host (Request.bare 0x23#8)
  | .selectOutdiv freqHz => .host { Request.bare 0x30#8 with arg0 := freqHz }
  | .selectBand freqHz => .host { Request.bare 0x31#8 with arg0 := freqHz }
  | .setTxFrequency freqHz => .host { Request.bare 0x32#8 with arg0 := freqHz }
  | .calcDeviation deviationHz => .host { Request.bare 0x33#8 with arg0 := deviationHz }
  | .setDeviation deviationHz => .host { Request.bare 0x34#8 with arg0 := deviationHz }
  | .setReferenceClock hz => .host { Request.bare 0x35#8 with arg0 := hz }
  | .setFrequencyOffset offset => .host { Request.bare 0x36#8 with arg0 := offset }
  | .checkClearUnderflow => .host (Request.bare 0x40#8)
  | .clearFifo => .host (Request.bare 0x41#8)
  | .startTx buffer => .host { Request.bare 0x42#8 with buf := buffer }
  | .waitTxComplete timeoutMs => .host { Request.bare 0x43#8 with arg0 := timeoutMs }
  | .requestDeviceState => .host (Request.bare 0x44#8)
  | .fsk4Write buffer => .host { Request.bare 0x50#8 with buf := buffer }
  | .fsk4WriteByte b => .host { Request.bare 0x51#8 with arg0 := b }
  | .fsk4Preamble n => .host { Request.bare 0x52#8 with arg0 := n }
  | .fsk4Idle => .host (Request.bare 0x53#8)
  | .cwMark units => .host { Request.bare 0x54#8 with arg0 := units }
  | .cwSpace units => .host { Request.bare 0x55#8 with arg0 := units }
  | .wfSetProperty group start values =>
    .wire (commandSlots ([p.wSetProperty, group, BitVec.ofNat 8 values.length, start] ++ values))
  | .wfPoll => .wire [.out p.wReadCmdBuff, .inn]
  | .wfResp length => .wire (List.replicate length .inn)
  | .wfChangeState target => .wire (commandSlots [p.wChangeState, p.stateCode target])
  | .wfFifoReset => .wire (commandSlots (p.wFifoInfo :: p.wFifoResetArg))
  | .wfIntStatus => .wire (commandSlots (p.wGetIntStatus :: p.wIntClearPayload))
  | .wfWriteTxFifo data => .wire (commandSlots (p.wWriteTxFifo :: data))
  | .wfStartTx total =>
    .wire (commandSlots
      [p.wStartTx, 0x00#8, p.wTxCondSleep, total.extractLsb' 8 8, total.extractLsb' 0 8])
  | .wfReqState => .wire (commandSlots [p.wRequestDeviceState])

/-! ## Reading the trace -/

/-- The frames of a trace: the events between each `SEL_L` and the next `SEL_H` (30_encoding.md R92). `inside` is the
frame being read; a frame that is not closed is left out. -/
def cutFrames (inside : Option (List Event)) : List Event → List (List Event)
  | [] => []
  | .selL :: es => cutFrames (some []) es
  | .selH :: es =>
    match inside with
    | some f => f :: cutFrames none es
    | none => cutFrames none es
  | e :: es => cutFrames (inside.map (· ++ [e])) es

/-- One event of a frame as a slot; the byte read is not part of the frame's code. -/
def slotOf : Event → Option Slot
  | .tx b => some (.out b)
  | .rx _ => some .inn
  | _ => none

/-! ## The bits of the opcode table -/

/-- The request whose bits are `w`: OP in bits 7 to 0 (spec/opcode_table.json), then ARG0 in bits 39 to 8 and ARG1 in
bits 71 to 40, with every other port zero. The packing of the ports is the model's (log entry 25). -/
def requestOfWord (nbits w : Nat) : Request :=
  let bits := w % 2 ^ nbits
  { Request.bare (BitVec.ofNat 8 bits) with
    arg0 := BitVec.ofNat 32 (bits / 2 ^ 8)
    arg1 := BitVec.ofNat 32 (bits / 2 ^ 40) }

/-- The instruction the decoder reads from an instruction whose bits are `w`. -/
def decodeTableWord (nbits w : Nat) : Option Instr :=
  match decodeRequest (requestOfWord nbits w) with
  | .ok i => some i
  | .error _ => none

end Sys2Proof
end

