-- ==== Sys2Proof/Machine/State.lean ====
section
/-! DEFINITION. The state of the RCB (10_state.md R20), its value after reset (R36), and the reasons a step can
stop. -/

namespace Sys2Proof.Machine

/-- The result kinds (60_exceptions.md R181): what ERR holds. -/
inductive Kind where
  | ok
  | busTimeout
  | invalidParameter
  | powerUpFailure
  | txTimeout
  | rangeFault
  | unwritten
  | refused
deriving DecidableEq, Repr, Inhabited

/-- The lifecycle register's values (10_state.md R28). -/
inductive Lifecycle where
  | uninitialized
  | configured
  | idle
  | transmitting
deriving DecidableEq, Repr, Inhabited

/-- Why the machine would stop with a fault: never. Every fault of the spec is a result kind, after which the RCB takes
the next operation (60_exceptions.md R180, R192), so this type has no constructor. -/
inductive Fault where
deriving DecidableEq, Repr

/-- Why a step has no meaning. -/
inductive Refusal where
  /-- Raised by an arm of `exec` whose instruction has no meaning in the model yet; none is left. Safe: nothing can be
  proved about what such an instruction does. -/
  | notModelled (mnemonic : String)
deriving DecidableEq, Repr

/-- The state of the RCB between two operations (10_state.md R20), with its result ports (R32), its parameters
(00_scope.md R8), and four fields of the model's own for what comes from outside. -/
structure State where
  /-- REFCLK, Hz (10_state.md R22). -/
  refclk : Word
  /-- CARRIER, Hz; `none` is a clear valid bit (10_state.md R23, R37). -/
  carrier : Option Word
  /-- DEVIATION, Hz; `none` is a clear valid bit (10_state.md R24, R37). -/
  deviation : Option Word
  /-- CP, the latched ChipParameters (10_state.md R26). -/
  cp : ChipParameters
  /-- RP, the latched RadioParameters (10_state.md R27). -/
  rp : RadioParameters
  /-- LC (10_state.md R28). -/
  lc : Lifecycle
  /-- ERR, the kind of the most recent operation (10_state.md R29). -/
  err : Kind
  /-- UF, the result of the most recent underflow check (10_state.md R29). -/
  uf : Bool
  /-- NSEL, the chip-select level (10_state.md R30). -/
  nsel : Level
  /-- SDN, the shutdown level (10_state.md R30). -/
  sdn : Level
  /-- The event trace, oldest first (10_state.md R35). -/
  trace : List Event
  /-- RET, the value of the most recent result (10_state.md R32). -/
  ret : Word
  /-- RESP, the bytes of the most recent result (10_state.md R32). -/
  resp : List Byte
  /-- The implementation parameters of this run; no step writes them (00_scope.md R8; log entry 9). -/
  cfg : Params
  /-- The MODEL's own: the host's requests not yet taken, next first (10_state.md R31; log entry 2). -/
  pending : List Request
  /-- The MODEL's own: the bytes the chip answers next, next first (10_state.md R33; log entry 3). -/
  rx : List Byte
  /-- The MODEL's own: how many bytes were drawn beyond `rx` (log entry 3). -/
  reads : Nat
  /-- The MODEL's own: how many operations have ended (log entry 4). -/
  ended : Nat
deriving DecidableEq, Repr

/-- The machine right after power-on (10_state.md R36, 70_reset_and_hazards.md R200). CP, RP, SDN, RET and RESP have
no reset value in the spec: DESIGN CHOICE, log entries 5 to 8. -/
def State.reset : State where
  refclk := 26000000
  carrier := none
  deviation := none
  cp := ⟨0, 0, 0, 0, 0, 0⟩
  rp := ⟨0, 0, 0, 0, .cw, 0, 0⟩
  lc := .uninitialized
  err := .ok
  uf := false
  nsel := .high
  sdn := .low
  trace := []
  ret := 0
  resp := []
  cfg := Config.params
  pending := []
  rx := []
  reads := 0
  ended := 0

end Sys2Proof.Machine
end

