-- ==== Sys2Proof/Machine/Flags.lean ====
section
/-! DEFINITION. The status the RCB computes: the underflow bit, the done test, the lifecycle value of a state command,
the kinds that lose the configuration. There are no arithmetic flags (10_state.md R29). -/

namespace Sys2Proof.Machine

/-- The underflow bit of the 7 status bytes: `s[W_UF_INDEX] AND W_UF_MASK` is not 0 (30_encoding.md R84). -/
def underflowBit (p : Params) (status : List Byte) : Bool :=
  status.getD p.wUfIndex.val 0#8 &&& p.wUfMask != 0#8

/-- The state code of a device-state response: `d[0] AND W_STATE_MASK` (30_encoding.md R87). -/
def maskedState (p : Params) (d : List Byte) : Byte := d.headD 0#8 &&& p.wStateMask

/-- The state codes that count as done (43_fifo_tx_engine.md R144). -/
def doneCode (p : Params) (c : Byte) : Bool :=
  c == p.wStSleep || c == p.wStReady || c == p.wStReady2 || c == p.wStSpiActive

/-- The lifecycle value a state command leaves (41_state_controller.md R110). -/
def lifecycleOf (target : OpState) : Lifecycle :=
  if target = .transmitting then .transmitting else .idle

/-- The kinds that set LC to Uninitialized (60_exceptions.md R192). -/
def losesConfiguration (k : Kind) : Bool := k == .busTimeout || k == .powerUpFailure

/-- The numeric code of a kind (60_exceptions.md R181). -/
def Kind.code : Kind → Nat
  | .ok => 0
  | .busTimeout => 1
  | .invalidParameter => 2
  | .powerUpFailure => 3
  | .txTimeout => 4
  | .rangeFault => 5
  | .unwritten => 6
  | .refused => 7

/-- The chip-select level after an event (10_state.md R30). -/
def nselAfter (l : Level) : Event → Level
  | .selL => .low
  | .selH => .high
  | _ => l

/-- The shutdown level after an event (10_state.md R30). -/
def sdnAfter (l : Level) : Event → Level
  | .sdn l' => l'
  | _ => l

end Sys2Proof.Machine
end

