-- ==== Sys2Proof/Machine/Operands.lean ====
section
/-! DEFINITION. The arithmetic of the operands: byte order, the band table, the fractional-N calculation, the
deviation, the symbols and the Morse unit. -/

namespace Sys2Proof.Machine

/-! ## Bytes -/

/-- The byte `v[8k+7:8k]` of a value (00_scope.md R10). -/
def byteAt (v k : Nat) : Byte := BitVec.ofNat 8 (v / 2 ^ (8 * k))

/-- `BE2(v)` (00_scope.md R10, 20_memory.md R55). -/
def be2 (v : Nat) : List Byte := [byteAt v 1, byteAt v 0]

/-- `BE3(v)` (00_scope.md R10, 20_memory.md R55). -/
def be3 (v : Nat) : List Byte := [byteAt v 2, byteAt v 1, byteAt v 0]

/-- `MemRead(BUF, 0), ..., MemRead(BUF, n-1)` for `n` up to the buffer's length (20_memory.md R51). -/
def memReads (buf : List Byte) (n : Nat) : List Byte := buf.take n

/-! ## The band table -/

/-- `BANDIDX(freq_hz)` (42_frequency_synthesizer.md R120). -/
def bandIdx (freqHz : Nat) : Fin 6 :=
  if freqHz < 177000000 then 0
  else if freqHz < 239000000 then 1
  else if freqHz < 353000000 then 2
  else if freqHz < 525000000 then 3
  else if freqHz < 705000000 then 4
  else 5

/-- The output dividers in ascending frequency (42_frequency_synthesizer.md R120). -/
def outdivTable : Vector Nat 6 := #v[24, 16, 12, 8, 6, 4]

/-- The band codes in ascending frequency (42_frequency_synthesizer.md R120). -/
def bandTable : Vector Nat 6 := #v[5, 4, 3, 2, 1, 0]

/-- The output divider of a frequency (42_frequency_synthesizer.md R121). -/
def outdivOf (freqHz : Nat) : Nat := outdivTable.get (bandIdx freqHz)

/-- The band code of a frequency (42_frequency_synthesizer.md R122). -/
def bandOf (freqHz : Nat) : Nat := bandTable.get (bandIdx freqHz)

/-! ## The synthesizer's arithmetic -/

/-- What PLLCALC yields (42_frequency_synthesizer.md R123); `n` is signed. -/
structure PllValues where
  outdiv : Nat
  band : Nat
  fPfd : Nat
  n : Int
  m : Nat
deriving DecidableEq, Repr

/-- `f_pfd`: the doubled reference divided, truncating, by the output divider (42_frequency_synthesizer.md R123). -/
def fPfdOf (freqHz refHz : Nat) : Nat := (2 * refHz) / outdivOf freqHz

/-- `PLLCALC(freq_hz, ref_hz)` (42_frequency_synthesizer.md R123). -/
def pllCalc (freqHz refHz : Nat) : PllValues where
  outdiv := outdivOf freqHz
  band := bandOf freqHz
  fPfd := fPfdOf freqHz refHz
  n := ((freqHz / fPfdOf freqHz refHz : Nat) : Int) - 1
  m := 2 ^ 19 + ((freqHz % fPfdOf freqHz refHz) * 2 ^ 19) / fPfdOf freqHz refHz

/-- `DEVCALC(deviation_hz, outdiv, ref_hz)` (42_frequency_synthesizer.md R126). -/
def devCalc (deviationHz outdiv refHz : Nat) : Nat := (2 ^ 19 * outdiv * deviationHz) / (2 * refHz)

/-! ## Symbols -/

/-- `SYM(b, k)`: the `k`-th pair of bits, most significant first (44_modulation_encoder.md R150). -/
def sym (b : Byte) (k : Fin 4) : BitVec 2 := b.extractLsb' (6 - 2 * k.val) 2

/-- The four symbols of a byte in the order they are sent (44_modulation_encoder.md R150, R152). -/
def symbolsOf (b : Byte) : List (BitVec 2) := [sym b 0, sym b 1, sym b 2, sym b 3]

/-- `OFFSET_LUT(s)` (44_modulation_encoder.md R151). -/
def offsetLut (s : BitVec 2) : Nat := 22 * s.toNat

/-- The training byte of the preamble (44_modulation_encoder.md R154). -/
def trainingByte : Byte := 0x1B#8

/-! ## Values of the parameters -/

/-- `DOT_MS` (44_modulation_encoder.md R157). -/
def dotMs (p : Params) : Nat := 1200 / (p.wpm : Nat)

/-- The band byte: the high-performance bit OR the band code (30_encoding.md R89). -/
def bandByte (p : Params) (band : Nat) : Byte := p.wHpBit ||| BitVec.ofNat 8 band

/-- The events of CFG_RESET_SEQ: the line driven low first (45_system_configuration.md R165). -/
def resetSeq (p : Params) : List Event := .sdn .low :: p.resetTail.map PinEvent.toEvent

/-- CFG_POWERUP_FRAMES: the listed value, or else the free one (45_system_configuration.md R165; log entry 10). -/
def powerupFrames (p : Params) (cp : ChipParameters) : List CommandFrame :=
  match p.powerupTable.find? (fun e => e.1 == cp) with
  | some e => e.2
  | none => Config.freePowerupFrames cp

/-- CFG_SETUP_FRAMES: the listed value, or else the free one (45_system_configuration.md R165; log entry 10). -/
def setupFrames (p : Params) (cp : ChipParameters) (rp : RadioParameters) : List CommandFrame :=
  match p.setupTable.find? (fun e => e.1 == (cp, rp)) with
  | some e => e.2
  | none => Config.freeSetupFrames cp rp

/-! ## Frames as events (00_scope.md R12) -/

/-- `FRAME_W[b0, ..., bk]`. -/
def frameW (bytes : List Byte) : List Event := .selL :: bytes.map .tx ++ [.selH]

/-- `FRAME_POLL(r)`. -/
def framePoll (p : Params) (r : Byte) : List Event := [.selL, .tx p.wReadCmdBuff, .rx r, .selH]

/-- `FRAME_R[r0, ..., rk]`. -/
def frameR (bytes : List Byte) : List Event := .selL :: bytes.map .rx ++ [.selH]

/-- The payload of the set-property frame (30_encoding.md R79). -/
def propPayload (group start : Byte) (values : List Byte) : List Byte :=
  [group, BitVec.ofNat 8 values.length, start] ++ values

/-- The payload of the start-transmit frame (30_encoding.md R86). -/
def startTxPayload (p : Params) (total : Nat) : List Byte := [0x00#8, p.wTxCondSleep] ++ be2 total

end Sys2Proof.Machine
end

