-- ==== Sys2Proof/Machine/Ops.lean ====
section
/-! DEFINITION. The named operations every meaning is made of: register writes, events, reads from the chip, the
clear-to-send wait, the helpers ISSUE, ISSUE_R and PROP_WRITE, ending an operation normally and by a result kind. -/

namespace Sys2Proof.Machine

/-! ## Register writes -/

/-- `LC <- l`. -/
def State.setLc (l : Lifecycle) (s : State) : State := { s with lc := l }

/-- `REFCLK <- hz`. -/
def State.setRefclk (hz : Word) (s : State) : State := { s with refclk := hz }

/-- `CARRIER <- hz; valid(CARRIER) <- 1`. -/
def State.setCarrier (hz : Word) (s : State) : State := { s with carrier := some hz }

/-- `DEVIATION <- hz; valid(DEVIATION) <- 1`. -/
def State.setDeviation (hz : Word) (s : State) : State := { s with deviation := some hz }

/-- `UF <- b`. -/
def State.setUf (b : Bool) (s : State) : State := { s with uf := b }

/-- `CP <- cp; RP <- rp`. -/
def State.latch (cp : ChipParameters) (rp : RadioParameters) (s : State) : State :=
  { s with cp := cp, rp := rp }

/-! ## Events and reads -/

/-- `emit e`: the event joins the trace and moves the pins (00_scope.md R12, 10_state.md R30). -/
def State.emit (e : Event) (s : State) : State :=
  { s with
    trace := s.trace ++ [e]
    nsel := nselAfter s.nsel e
    sdn := sdnAfter s.sdn e }

/-- `emit` of each event of a list in order. -/
def State.emits (es : List Event) (s : State) : State := es.foldl (fun s e => s.emit e) s

/-- The next byte the chip answers: any value (10_state.md R33). -/
def drawByte (s : State) : Byte × State :=
  match s.rx with
  | b :: rest => (b, { s with rx := rest })
  | [] => (Config.chipByte s.reads, { s with reads := s.reads + 1 })

/-- The next `n` bytes the chip answers, in order. -/
def drawBytes : Nat → State → List Byte × State
  | 0, s => ([], s)
  | n + 1, s =>
    let d := drawByte s
    let ds := drawBytes n d.2
    (d.1 :: ds.1, ds.2)

/-! ## Running an operation -/

/-- A piece of an operation: it ran to its end with a value, or it raised a kind (00_scope.md R13). -/
inductive Ran (α : Type) where
  | done (a : α) (s : State)
  | raised (k : Kind) (s : State)
deriving DecidableEq, Repr

/-- The next piece runs where the first one ended; a raise ends the operation (00_scope.md R13). -/
def Ran.bind {α β : Type} (r : Ran α) (f : α → State → Ran β) : Ran β :=
  match r with
  | .done a s => f a s
  | .raised k s => .raised k s

/-- A call whose kind `k` is reported as `k'` (60_exceptions.md R193). -/
def Ran.converting {α : Type} (k k' : Kind) (r : Ran α) : Ran α :=
  match r with
  | .done a s => .done a s
  | .raised j s => .raised (if j = k then k' else j) s

/-- `require c else raise k`. -/
def require (c : Bool) (k : Kind) (s : State) : Ran Unit :=
  if c then .done () s else .raised k s

/-- `require LC != Uninitialized else raise Refused` (60_exceptions.md R189). -/
def requireUp (s : State) : Ran Unit := require (s.lc != .uninitialized) .refused s

/-! ## Bus transport -/

/-- A command frame: select, every byte written in order, deselect (30_encoding.md R78). -/
def sendFrame (bytes : List Byte) (s : State) : State := s.emits (frameW bytes)

/-- A poll-status frame and the byte it read (30_encoding.md R80). -/
def pollFrame (s : State) : Byte × State :=
  let d := drawByte s
  (d.1, d.2.emits (framePoll s.cfg d.1))

/-- A response-read frame of `length` bytes and what it read (30_encoding.md R81). -/
def respFrame (length : Nat) (s : State) : List Byte × State :=
  let d := drawBytes length s
  (d.1, d.2.emits (frameR d.1))

/-- The loop of `WAIT_CTS(limit)` (40_bus_transport.md R101). -/
def waitLoop : Nat → State → Ran Unit
  | 0, s => .raised .busTimeout s
  | n + 1, s =>
    let d := pollFrame s
    if d.1 = 0xFF#8 then .done () d.2 else waitLoop n d.2

/-- `READ_RESPONSE(length, limit)` without its lifecycle check (40_bus_transport.md R102). -/
def readResponse (length limit : Nat) (s : State) : Ran (List Byte) :=
  (waitLoop limit s).bind fun _ s =>
  let d := respFrame length s
  .done d.1 d.2

/-- `ISSUE(opcode, payload)` (40_bus_transport.md R103). -/
def issue (opcode : Byte) (payload : List Byte) (s : State) : Ran Unit :=
  (waitLoop s.cfg.ctsLimit s).bind fun _ s => .done () (sendFrame (opcode :: payload) s)

/-- `ISSUE_R(opcode, payload, length)` (40_bus_transport.md R103). -/
def issueR (opcode : Byte) (payload : List Byte) (length : Nat) (s : State) : Ran (List Byte) :=
  (issue opcode payload s).bind fun _ s => readResponse length s.cfg.ctsLimit s

/-- `PROP_WRITE(group, start, values)` (40_bus_transport.md R104). -/
def propWrite (group start : Byte) (values : List Byte) (s : State) : Ran Unit :=
  issue s.cfg.wSetProperty (propPayload group start values) s

/-- `call ISSUE(opcode, payload)` for each frame of a list in order (45_system_configuration.md R165). -/
def issueAll : List CommandFrame → State → Ran Unit
  | [], s => .done () s
  | f :: fs, s => (issue f.opcode f.payload s).bind fun _ s => issueAll fs s

/-- Each frame of a list sent with no wait before it (45_system_configuration.md R165). -/
def sendAll (fs : List CommandFrame) (s : State) : State :=
  fs.foldl (fun s f => sendFrame (f.opcode :: f.payload) s) s

/-! ## The end of an operation -/

/-- What an operation's rule assigns to the result ports; a port it does not assign is left free
(93_implementation_defined.md X2). -/
structure Result where
  ret : Option Word := none
  resp : Option (List Byte) := none
deriving DecidableEq, Repr

/-- `return OK` (00_scope.md R13, 60_exceptions.md R180). -/
def State.returnOk (r : Result) (s : State) : State :=
  { s with
    err := .ok
    ret := r.ret.getD (Config.freeRet s.ended)
    resp := r.resp.getD (Config.freeResp s.ended)
    ended := s.ended + 1 }

/-- `raise k`: the one entry of every fault (60_exceptions.md R192). There is no handler and no return from one
(60_exceptions.md R193): the host issues its next request. -/
def State.raise (k : Kind) (s : State) : State :=
  { s with
    err := k
    lc := if losesConfiguration k then .uninitialized else s.lc
    ret := Config.freeRet s.ended
    resp := Config.freeResp s.ended
    ended := s.ended + 1 }

/-- The state a host operation leaves (60_exceptions.md R180). -/
def Ran.settle (r : Ran Result) : State :=
  match r with
  | .done v s => s.returnOk v
  | .raised k s => s.raise k

/-- A host operation's outcome: always a next state. -/
def finish (r : Ran Result) : Host.Outcome State Fault Refusal := .next r.settle

/-- The state a wire frame leaves: it is no operation, so ERR and RET keep their values, and RESP holds the bytes it
read, if it is one that yields bytes (log entry 13). -/
def Ran.settleFrame (r : Ran (Option (List Byte))) : State :=
  match r with
  | .done none s => s
  | .done (some bs) s => { s with resp := bs }
  | .raised k s => s.raise k

/-- A wire frame's outcome: always a next state. -/
def finishFrame (r : Ran (Option (List Byte))) : Host.Outcome State Fault Refusal := .next r.settleFrame

/-! ## Taking a request -/

/-- The host's next request and the state with it taken (10_state.md R31). -/
def fetch (s : State) : Option (Request × State) :=
  match s.pending with
  | [] => none
  | r :: rest => some (r, { s with pending := rest })

/-- A request that selects no operation: `ERR <- Refused`, no event (30_encoding.md R91). -/
def refuseRequest (s : State) : State := s.raise .refused

end Sys2Proof.Machine
end

