-- ==== Sys2Proof/Machine/StateControl.lean ====
section
/-! DEFINITION. State Controller (41_state_controller.md). -/

namespace Sys2Proof.Machine

/-- The body of SET_STATE(target) after its lifecycle check (41_state_controller.md R110): the wait, the change-state
frame, LC. Nothing is read back. -/
def commandState (target : OpState) (s : State) : Ran Unit :=
  (issue s.cfg.wChangeState [s.cfg.stateCode target] s).bind fun _ s =>
  .done () (s.setLc (lifecycleOf target))

/-- A state operation as the host issues it (41_state_controller.md R110). -/
def stateOperation (target : OpState) (s : State) : Ran Result :=
  (requireUp s).bind fun _ s =>
  (commandState target s).bind fun _ s =>
  .done {} s

/-- SET_STATE(target) (41_state_controller.md R110). -/
def execSetState (target : OpState) (s : State) : Host.Outcome State Fault Refusal :=
  finish (stateOperation target s)

/-- ENABLE_TX is SET_STATE(transmitting) (41_state_controller.md R111). -/
def execEnableTx (s : State) : Host.Outcome State Fault Refusal :=
  finish (stateOperation .transmitting s)

/-- INHIBIT_TX is SET_STATE(ready) (41_state_controller.md R112). -/
def execInhibitTx (s : State) : Host.Outcome State Fault Refusal :=
  finish (stateOperation .ready s)

/-- DISABLE_TX is SET_STATE(sleep) (41_state_controller.md R113). -/
def execDisableTx (s : State) : Host.Outcome State Fault Refusal :=
  finish (stateOperation .sleep s)

end Sys2Proof.Machine
end

