-- ==== Sys2Proof/Machine/FifoTx.lean ====
section
/-! DEFINITION. FIFO TX Engine (43_fifo_tx_engine.md). -/

namespace Sys2Proof.Machine

/-- The body of CHECK_CLEAR_UNDERFLOW after its lifecycle check (43_fifo_tx_engine.md R140): it yields the bit it
stored in UF. -/
def checkUnderflow (s : State) : Ran Bool :=
  (issueR s.cfg.wGetIntStatus s.cfg.wIntClearPayload 7 s).bind fun status s =>
  .done (underflowBit s.cfg status) (s.setUf (underflowBit s.cfg status))

/-- CHECK_CLEAR_UNDERFLOW (43_fifo_tx_engine.md R140). -/
def execCheckClearUnderflow (s : State) : Host.Outcome State Fault Refusal :=
  finish <|
    (requireUp s).bind fun _ s =>
    (checkUnderflow s).bind fun b s =>
    .done { ret := some (if b then 1 else 0) } s

/-- The body of CLEAR_FIFO after its lifecycle check (43_fifo_tx_engine.md R141): the check first, then the FIFO
reset. -/
def clearFifo (s : State) : Ran Unit :=
  (checkUnderflow s).bind fun _ s =>
  issue s.cfg.wFifoInfo s.cfg.wFifoResetArg s

/-- CLEAR_FIFO (43_fifo_tx_engine.md R141). -/
def execClearFifo (s : State) : Host.Outcome State Fault Refusal :=
  finish <|
    (requireUp s).bind fun _ s =>
    (clearFifo s).bind fun _ s =>
    .done {} s

/-- START_TX(buffer) (43_fifo_tx_engine.md R142). -/
def execStartTx (buffer : List Byte) (s : State) : Host.Outcome State Fault Refusal :=
  finish <|
    (requireUp s).bind fun _ s =>
    (require (buffer.length ≤ 65535) .rangeFault s).bind fun _ s =>
    (clearFifo s).bind fun _ s =>
    (issue s.cfg.wWriteTxFifo (memReads buffer (min buffer.length 64)) s).bind fun _ s =>
    (issue s.cfg.wStartTx (startTxPayload s.cfg buffer.length) s).bind fun _ s =>
    .done { ret := some (BitVec.ofNat 32 (min buffer.length 64)) } (s.setLc .transmitting)

/-- The body of REQUEST_DEVICE_STATE after its lifecycle check (43_fifo_tx_engine.md R143). -/
def queryState (s : State) : Ran Byte :=
  (issueR s.cfg.wRequestDeviceState [] s.cfg.wRdsRespLen s).bind fun d s =>
  .done (maskedState s.cfg d) s

/-- REQUEST_DEVICE_STATE (43_fifo_tx_engine.md R143). -/
def execRequestDeviceState (s : State) : Host.Outcome State Fault Refusal :=
  finish <|
    (requireUp s).bind fun _ s =>
    (queryState s).bind fun c s =>
    .done { ret := some (c.setWidth 32) } s

/-- The loop of WAIT_TX_COMPLETE (43_fifo_tx_engine.md R144): query, then delay; it yields whether a done state was
seen within the count. -/
def doneLoop : Nat → State → Ran Bool
  | 0, s => .done false s
  | n + 1, s =>
    (queryState s).bind fun c s =>
    if doneCode s.cfg c then .done true s else doneLoop n (s.emit (.dlyMs 1))

/-- What follows the loop of WAIT_TX_COMPLETE (43_fifo_tx_engine.md R144). -/
def afterDoneLoop (isDone : Bool) (s : State) : Ran Result :=
  if isDone then .done {} (s.setLc .idle)
  else
    (commandState .sleep s).bind fun _ s =>
    .raised .txTimeout (s.setLc .idle)

/-- WAIT_TX_COMPLETE(timeout_ms) (43_fifo_tx_engine.md R144). -/
def execWaitTxComplete (timeoutMs : Word) (s : State) : Host.Outcome State Fault Refusal :=
  finish <|
    (requireUp s).bind fun _ s =>
    (doneLoop timeoutMs.toNat s).bind fun isDone s =>
    afterDoneLoop isDone s

end Sys2Proof.Machine
end

