-- ==== Sys2Proof/Machine/Synthesizer.lean ====
section
/-! DEFINITION. Frequency Synthesizer (42_frequency_synthesizer.md). -/

namespace Sys2Proof.Machine

/-- A value as the 32 bits of RET. -/
def retWord (v : Nat) : Option Word := some (BitVec.ofNat 32 v)

/-- SELECT_OUTDIV(freq_hz) (42_frequency_synthesizer.md R121): pure, in any LC. -/
def execSelectOutdiv (freqHz : Word) (s : State) : Host.Outcome State Fault Refusal :=
  finish (.done { ret := retWord (outdivOf freqHz.toNat) } s)

/-- SELECT_BAND(freq_hz) (42_frequency_synthesizer.md R122): pure, in any LC. -/
def execSelectBand (freqHz : Word) (s : State) : Host.Outcome State Fault Refusal :=
  finish (.done { ret := retWord (bandOf freqHz.toNat) } s)

/-- The deviation frame: PROP_WRITE of `BE3(devreg)` (30_encoding.md R90). -/
def writeDeviation (devreg : Nat) (s : State) : Ran Unit :=
  propWrite s.cfg.wGDev s.cfg.wIDev (be3 devreg) s

/-- The body of SET_TX_FREQUENCY(freq_hz) after its lifecycle check (42_frequency_synthesizer.md R125). -/
def tuneTo (freqHz : Word) (s : State) : Ran Unit :=
  match s.deviation with
  | none => .raised .unwritten s
  | some deviationHz =>
    let pll := pllCalc freqHz.toNat s.refclk.toNat
    let devreg := devCalc deviationHz.toNat pll.outdiv s.refclk.toNat
    (require (0 ≤ pll.n ∧ pll.n ≤ 255 ∧ devreg < 2 ^ 24) .rangeFault s).bind fun _ s =>
    (propWrite s.cfg.wGClkgen s.cfg.wIClkgenBand [bandByte s.cfg pll.band] s).bind fun _ s =>
    (propWrite s.cfg.wGFreq s.cfg.wIFreqInte
      ([byteAt pll.n.toNat 0] ++ be3 pll.m ++ [0x00#8, 0x02#8]) s).bind fun _ s =>
    writeDeviation devreg (s.setCarrier freqHz)

/-- SET_TX_FREQUENCY(freq_hz) (42_frequency_synthesizer.md R125). -/
def execSetTxFrequency (freqHz : Word) (s : State) : Host.Outcome State Fault Refusal :=
  finish <|
    (requireUp s).bind fun _ s =>
    (tuneTo freqHz s).bind fun _ s =>
    .done {} s

/-- CALC_DEVIATION(deviation_hz) (42_frequency_synthesizer.md R127): no event, in any LC. -/
def execCalcDeviation (deviationHz : Word) (s : State) : Host.Outcome State Fault Refusal :=
  finish <|
    match s.carrier with
    | none => .raised .unwritten s
    | some carrierHz =>
      .done { ret := retWord (devCalc deviationHz.toNat (outdivOf carrierHz.toNat) s.refclk.toNat) } s

/-- The body of SET_DEVIATION(deviation_hz) after its lifecycle check (42_frequency_synthesizer.md R128). -/
def deviateBy (deviationHz : Word) (s : State) : Ran Unit :=
  match s.carrier with
  | none => .raised .unwritten s
  | some carrierHz =>
    let devreg := devCalc deviationHz.toNat (outdivOf carrierHz.toNat) s.refclk.toNat
    (require (devreg < 2 ^ 24) .rangeFault s).bind fun _ s =>
    writeDeviation devreg (s.setDeviation deviationHz)

/-- SET_DEVIATION(deviation_hz) (42_frequency_synthesizer.md R128). -/
def execSetDeviation (deviationHz : Word) (s : State) : Host.Outcome State Fault Refusal :=
  finish <|
    (requireUp s).bind fun _ s =>
    (deviateBy deviationHz s).bind fun _ s =>
    .done {} s

/-- SET_REFERENCE_CLOCK(hz) (42_frequency_synthesizer.md R129): no event, in any LC. -/
def execSetReferenceClock (hz : Word) (s : State) : Host.Outcome State Fault Refusal :=
  finish <|
    (require (26000000 < hz.toNat ∧ hz.toNat < 30000000) .invalidParameter s).bind fun _ s =>
    .done {} (s.setRefclk hz)

/-- The body of SET_FREQUENCY_OFFSET(offset) after its lifecycle check (42_frequency_synthesizer.md R130). -/
def writeOffset (offset : Nat) (s : State) : Ran Unit :=
  (require (offset < 2 ^ 16) .rangeFault s).bind fun _ s =>
  propWrite s.cfg.wGOffset s.cfg.wIOffset (be2 offset) s

/-- SET_FREQUENCY_OFFSET(offset) (42_frequency_synthesizer.md R130). -/
def execSetFrequencyOffset (offset : Word) (s : State) : Host.Outcome State Fault Refusal :=
  finish <|
    (requireUp s).bind fun _ s =>
    (writeOffset offset.toNat s).bind fun _ s =>
    .done {} s

end Sys2Proof.Machine
end

