-- ==== Sys2Proof/Machine/Modulation.lean ====
section
/-! DEFINITION. Modulation Encoder (44_modulation_encoder.md). -/

namespace Sys2Proof.Machine

/-- Symbols in order, each as an offset write and its hold (44_modulation_encoder.md R152). -/
def sendSymbols : List (BitVec 2) → State → Ran Unit
  | [], s => .done () s
  | y :: ys, s =>
    (writeOffset (offsetLut y) s).bind fun _ s =>
    sendSymbols ys (s.emit (.dlyMs s.cfg.tSymMs))

/-- The body of FSK4_WRITEBYTE(b) after its checks (44_modulation_encoder.md R152). -/
def writeByte (b : Byte) (s : State) : Ran Unit := sendSymbols (symbolsOf b) s

/-- Bytes in ascending index order (44_modulation_encoder.md R153). -/
def writeBytes : List Byte → State → Ran Unit
  | [], s => .done () s
  | b :: bs, s => (writeByte b s).bind fun _ s => writeBytes bs s

/-- One byte `n` times (44_modulation_encoder.md R154). -/
def repeatByte (b : Byte) : Nat → State → Ran Unit
  | 0, s => .done () s
  | n + 1, s => (writeByte b s).bind fun _ s => repeatByte b n s

/-- FSK4_WRITE(buffer) (44_modulation_encoder.md R153). -/
def execFsk4Write (buffer : List Byte) (s : State) : Host.Outcome State Fault Refusal :=
  finish <|
    (requireUp s).bind fun _ s =>
    (writeBytes buffer s).bind fun _ s =>
    .done {} s

/-- FSK4_WRITEBYTE(b) (44_modulation_encoder.md R152). -/
def execFsk4WriteByte (b : Word) (s : State) : Host.Outcome State Fault Refusal :=
  finish <|
    (requireUp s).bind fun _ s =>
    (require (b.toNat < 256) .rangeFault s).bind fun _ s =>
    (writeByte (b.setWidth 8) s).bind fun _ s =>
    .done {} s

/-- FSK4_PREAMBLE(n) (44_modulation_encoder.md R154). -/
def execFsk4Preamble (n : Word) (s : State) : Host.Outcome State Fault Refusal :=
  finish <|
    (requireUp s).bind fun _ s =>
    (repeatByte trainingByte n.toNat s).bind fun _ s =>
    .done {} s

/-- FSK4_IDLE (44_modulation_encoder.md R155): offset 0 and no hold. -/
def execFsk4Idle (s : State) : Host.Outcome State Fault Refusal :=
  finish <|
    (requireUp s).bind fun _ s =>
    (writeOffset 0 s).bind fun _ s =>
    .done {} s

/-- CW_MARK(units) (44_modulation_encoder.md R158): carrier on, hold, carrier off. -/
def execCwMark (units : Word) (s : State) : Host.Outcome State Fault Refusal :=
  finish <|
    (requireUp s).bind fun _ s =>
    (commandState .transmitting s).bind fun _ s =>
    (commandState .ready (s.emit (.dlyMs (units.toNat * dotMs s.cfg)))).bind fun _ s =>
    .done {} s

/-- CW_SPACE(units) (44_modulation_encoder.md R159): a hold and no frame. -/
def execCwSpace (units : Word) (s : State) : Host.Outcome State Fault Refusal :=
  finish <|
    (requireUp s).bind fun _ s =>
    .done {} (s.emit (.dlyMs (units.toNat * dotMs s.cfg)))

end Sys2Proof.Machine
end

