-- ==== Sys2Proof/Machine/System.lean ====
section
/-! DEFINITION. Configuration, power level and context read-back (45_system_configuration.md). -/

namespace Sys2Proof.Machine

/-- The body of CONFIGURE(cp, rp) after its power check (45_system_configuration.md R165). -/
def configureWith (cp : ChipParameters) (rp : RadioParameters) (s : State) : Ran Unit :=
  let s := ((s.setLc .uninitialized).latch cp rp).emits (resetSeq s.cfg)
  let s := sendAll (powerupFrames s.cfg cp) s
  ((waitLoop s.cfg.ctsLimit s).converting .busTimeout .powerUpFailure).bind fun _ s =>
  (issueAll (setupFrames s.cfg cp rp) s).bind fun _ s =>
  (tuneTo rp.carrierHz (s.setDeviation rp.deviationHz)).bind fun _ s =>
  .done () ((s.setLc .configured).setLc .idle)

/-- CONFIGURE(cp, rp) (45_system_configuration.md R165), in any LC. -/
def execConfigure (cp : ChipParameters) (rp : RadioParameters) (s : State) : Host.Outcome State Fault Refusal :=
  finish <|
    (require (rp.power.toNat ≤ 127) .rangeFault s).bind fun _ s =>
    (configureWith cp rp s).bind fun _ s =>
    .done {} s

/-- SET_POWER(level) (45_system_configuration.md R166). -/
def execSetPower (level : Word) (s : State) : Host.Outcome State Fault Refusal :=
  finish <|
    (requireUp s).bind fun _ s =>
    (require (level.toNat ≤ 127) .rangeFault s).bind fun _ s =>
    (propWrite s.cfg.wGPa s.cfg.wIPaPwr [level.setWidth 8] s).bind fun _ s =>
    .done {} s

/-- The value of a context register; `none` where its valid bit is clear (10_state.md R37). -/
def contextValue (sel : ContextSel) (s : State) : Option Word :=
  match sel with
  | .refclk => some s.refclk
  | .carrier => s.carrier
  | .deviation => s.deviation

/-- READ_CONTEXT(sel) (45_system_configuration.md R167), in any LC. -/
def execReadContext (sel : ContextSel) (s : State) : Host.Outcome State Fault Refusal :=
  finish <|
    match contextValue sel s with
    | none => .raised .unwritten s
    | some v => .done { ret := some v } s

end Sys2Proof.Machine
end

