-- ==== Sys2Proof/Machine/Transport.lean ====
section
/-! DEFINITION. Bus Transport (40_bus_transport.md). -/

namespace Sys2Proof.Machine

/-- SEND_COMMAND(opcode, payload) (40_bus_transport.md R100). It does not wait and leaves LC alone. -/
def execSendCommand (opcode : Word) (payload : List Byte) (s : State) : Host.Outcome State Fault Refusal :=
  finish <|
    (requireUp s).bind fun _ s =>
    (require (opcode.toNat < 256) .rangeFault s).bind fun _ s =>
    .done {} (sendFrame (opcode.setWidth 8 :: payload) s)

/-- WAIT_CTS(limit) (40_bus_transport.md R101). -/
def execWaitCts (limit : Word) (s : State) : Host.Outcome State Fault Refusal :=
  finish <|
    (requireUp s).bind fun _ s =>
    (waitLoop limit.toNat s).bind fun _ s =>
    .done {} s

/-- READ_RESPONSE(length, limit) (40_bus_transport.md R102). -/
def execReadResponse (length limit : Word) (s : State) : Host.Outcome State Fault Refusal :=
  finish <|
    (requireUp s).bind fun _ s =>
    (readResponse length.toNat limit.toNat s).bind fun bs s =>
    .done { resp := some bs } s

end Sys2Proof.Machine
end

