-- ==== Sys2Proof/Machine/Wire.lean ====
section
/-! DEFINITION. The wire frames as the RCB puts them on the bus (30_encoding.md R79 to R87): each meaning is one run of
the frame, with no wait before it and no lifecycle check (those belong to the operations that send it). Operations reach
the same frames through ISSUE, PROP_WRITE, WAIT_CTS and READ_RESPONSE; the host cannot request a frame by itself
(log entry 13). -/

namespace Sys2Proof.Machine

/-- WF_SET_PROPERTY (30_encoding.md R79). A number of values the RCB never sends raises RangeFault (log entry 14). -/
def execWfSetProperty (group start : Byte) (values : List Byte) (s : State) : Host.Outcome State Fault Refusal :=
  finishFrame <|
    (require (1 ≤ values.length ∧ values.length ≤ 6) .rangeFault s).bind fun _ s =>
    .done none (sendFrame (s.cfg.wSetProperty :: propPayload group start values) s)

/-- WF_POLL (30_encoding.md R80): one byte written, one byte read. -/
def execWfPoll (s : State) : Host.Outcome State Fault Refusal :=
  finishFrame (.done none (pollFrame s).2)

/-- WF_RESP (30_encoding.md R81): nothing written, `length` bytes read. -/
def execWfResp (length : Nat) (s : State) : Host.Outcome State Fault Refusal :=
  finishFrame (.done (some (respFrame length s).1) (respFrame length s).2)

/-- WF_CHANGE_STATE (30_encoding.md R82). -/
def execWfChangeState (target : OpState) (s : State) : Host.Outcome State Fault Refusal :=
  finishFrame (.done none (sendFrame [s.cfg.wChangeState, s.cfg.stateCode target] s))

/-- WF_FIFO_RESET (30_encoding.md R83). -/
def execWfFifoReset (s : State) : Host.Outcome State Fault Refusal :=
  finishFrame (.done none (sendFrame (s.cfg.wFifoInfo :: s.cfg.wFifoResetArg) s))

/-- WF_INT_STATUS (30_encoding.md R84): the command frame, then a READ_RESPONSE of 7 bytes. -/
def execWfIntStatus (s : State) : Host.Outcome State Fault Refusal :=
  finishFrame <|
    (readResponse 7 s.cfg.ctsLimit (sendFrame (s.cfg.wGetIntStatus :: s.cfg.wIntClearPayload) s)).bind fun bs s =>
    .done (some bs) s

/-- WF_WRITE_TX_FIFO (30_encoding.md R85). More than 64 data bytes raise RangeFault (log entry 14). -/
def execWfWriteTxFifo (data : List Byte) (s : State) : Host.Outcome State Fault Refusal :=
  finishFrame <|
    (require (data.length ≤ 64) .rangeFault s).bind fun _ s =>
    .done none (sendFrame (s.cfg.wWriteTxFifo :: data) s)

/-- WF_START_TX (30_encoding.md R86). -/
def execWfStartTx (total : BitVec 16) (s : State) : Host.Outcome State Fault Refusal :=
  finishFrame (.done none (sendFrame (s.cfg.wStartTx :: startTxPayload s.cfg total.toNat) s))

/-- WF_REQ_STATE (30_encoding.md R87): the command frame, then a READ_RESPONSE of W_RDS_RESP_LEN bytes. -/
def execWfReqState (s : State) : Host.Outcome State Fault Refusal :=
  finishFrame <|
    (readResponse s.cfg.wRdsRespLen s.cfg.ctsLimit (sendFrame [s.cfg.wRequestDeviceState] s)).bind fun bs s =>
    .done (some bs) s

end Sys2Proof.Machine
end

