-- ==== Sys2Proof/Machine/Dispatch.lean ====
section
/-! DEFINITION. One arm per row of spec/opcode_table.json, each one call of that row's meaning. -/

namespace Sys2Proof.Machine

def exec (i : Instr) (s : State) : Host.Outcome State Fault Refusal :=
  match i with
  | .configure cp rp => Sys2Proof.Machine.execConfigure cp rp s
  | .setPower level => Sys2Proof.Machine.execSetPower level s
  | .readContext sel => Sys2Proof.Machine.execReadContext sel s
  | .sendCommand opcode payload => Sys2Proof.Machine.execSendCommand opcode payload s
  | .waitCts limit => Sys2Proof.Machine.execWaitCts limit s
  | .readResponse length limit => Sys2Proof.Machine.execReadResponse length limit s
  | .setState target => Sys2Proof.Machine.execSetState target s
  | .enableTx => Sys2Proof.Machine.execEnableTx s
  | .inhibitTx => Sys2Proof.Machine.execInhibitTx s
  | .disableTx => Sys2Proof.Machine.execDisableTx s
  | .selectOutdiv freqHz => Sys2Proof.Machine.execSelectOutdiv freqHz s
  | .selectBand freqHz => Sys2Proof.Machine.execSelectBand freqHz s
  | .setTxFrequency freqHz => Sys2Proof.Machine.execSetTxFrequency freqHz s
  | .calcDeviation deviationHz => Sys2Proof.Machine.execCalcDeviation deviationHz s
  | .setDeviation deviationHz => Sys2Proof.Machine.execSetDeviation deviationHz s
  | .setReferenceClock hz => Sys2Proof.Machine.execSetReferenceClock hz s
  | .setFrequencyOffset offset => Sys2Proof.Machine.execSetFrequencyOffset offset s
  | .checkClearUnderflow => Sys2Proof.Machine.execCheckClearUnderflow s
  | .clearFifo => Sys2Proof.Machine.execClearFifo s
  | .startTx buffer => Sys2Proof.Machine.execStartTx buffer s
  | .waitTxComplete timeoutMs => Sys2Proof.Machine.execWaitTxComplete timeoutMs s
  | .requestDeviceState => Sys2Proof.Machine.execRequestDeviceState s
  | .fsk4Write buffer => Sys2Proof.Machine.execFsk4Write buffer s
  | .fsk4WriteByte b => Sys2Proof.Machine.execFsk4WriteByte b s
  | .fsk4Preamble n => Sys2Proof.Machine.execFsk4Preamble n s
  | .fsk4Idle => Sys2Proof.Machine.execFsk4Idle s
  | .cwMark units => Sys2Proof.Machine.execCwMark units s
  | .cwSpace units => Sys2Proof.Machine.execCwSpace units s
  | .wfSetProperty group start values => Sys2Proof.Machine.execWfSetProperty group start values s
  | .wfPoll => Sys2Proof.Machine.execWfPoll s
  | .wfResp length => Sys2Proof.Machine.execWfResp length s
  | .wfChangeState target => Sys2Proof.Machine.execWfChangeState target s
  | .wfFifoReset => Sys2Proof.Machine.execWfFifoReset s
  | .wfIntStatus => Sys2Proof.Machine.execWfIntStatus s
  | .wfWriteTxFifo data => Sys2Proof.Machine.execWfWriteTxFifo data s
  | .wfStartTx total => Sys2Proof.Machine.execWfStartTx total s
  | .wfReqState => Sys2Proof.Machine.execWfReqState s

end Sys2Proof.Machine
end

