-- ==== Sys2Proof/Machine/Step.lean ====
section
/-! DEFINITION. One step of the RCB: the host's next request, taken, decoded and run to its end. -/

namespace Sys2Proof.Machine

/-- `s` with the request whose bits are `w` put where `step` takes its next request. -/
def State.withFetchWord (s : State) (nbits w : Nat) : State :=
  { s with pending := requestOfWord nbits w :: s.pending }

/-- Without a request the RCB waits (70_reset_and_hazards.md R200); a request is taken, decoded and run to its end
(10_state.md R31); one that selects no operation is refused (30_encoding.md R91). -/
def step (s : State) : Host.Outcome State Fault Refusal :=
  match fetch s with
  | none => .next s
  | some (r, t) =>
    match decode t.cfg (.host r) with
    | .ok i => exec i t
    | .error _ => .next (refuseRequest t)

end Sys2Proof.Machine
end

