-- ==== Sys2Proof/Safety.lean ====
section
/-! DEFINITION. The terms claims are stated in: how an operation ends, what a wait reads, when a trace is framed and
guarded, and the invariant of a run. -/

namespace Sys2Proof.Machine

/-! ## How an operation ends -/

/-- The operation `i`, run at `s`, ends with the kind `k` and leaves `t`, with RET and RESP whatever they are
(60_exceptions.md R180, 93_implementation_defined.md X2). -/
def Ends (i : Instr) (s : State) (k : Kind) (t : State) : Prop :=
  ∃ (v : Word) (bs : List Byte),
    exec i s = .next { t with err := k, ret := v, resp := bs, ended := t.ended + 1 }

/-- The operation `i`, run at `s`, ends with `OK` and RET equal to `v`, and leaves `t`, with RESP whatever it is. -/
def Returns (i : Instr) (s : State) (v : Word) (t : State) : Prop :=
  ∃ bs : List Byte, exec i s = .next { t with err := .ok, ret := v, resp := bs, ended := t.ended + 1 }

/-- The operation `i` is refused at every state whose LC is Uninitialized, and changes nothing else
(60_exceptions.md R189). -/
def RefusedWhenDown (i : Instr) : Prop := ∀ s : State, s.lc = .uninitialized → Ends i s .refused s

/-- The operation code `op` selects the operation that `form` reads from the ports (30_encoding.md R77). -/
def Selects (op : BitVec 8) (form : Request → Instr) : Prop :=
  ∀ r : Request, r.op = op → decodeRequest r = .ok (form r)

/-- The 28 operation codes of 30_encoding.md R77. -/
def operationCodes : List (BitVec 8) :=
  [0x01#8, 0x02#8, 0x03#8, 0x10#8, 0x11#8, 0x12#8, 0x20#8, 0x21#8, 0x22#8, 0x23#8, 0x30#8, 0x31#8, 0x32#8, 0x33#8,
    0x34#8, 0x35#8, 0x36#8, 0x40#8, 0x41#8, 0x42#8, 0x43#8, 0x44#8, 0x50#8, 0x51#8, 0x52#8, 0x53#8, 0x54#8, 0x55#8]

/-- The operations refused while LC is Uninitialized: every one whose rule can emit an event, other than CONFIGURE
(60_exceptions.md R189). -/
def gated : Instr → Bool
  | .setPower _ | .sendCommand _ _ | .waitCts _ | .readResponse _ _
  | .setState _ | .enableTx | .inhibitTx | .disableTx
  | .setTxFrequency _ | .setDeviation _ | .setFrequencyOffset _
  | .checkClearUnderflow | .clearFifo | .startTx _ | .waitTxComplete _ | .requestDeviceState
  | .fsk4Write _ | .fsk4WriteByte _ | .fsk4Preamble _ | .fsk4Idle | .cwMark _ | .cwSpace _ => true
  | .configure _ _ | .readContext _ | .selectOutdiv _ | .selectBand _ | .calcDeviation _ | .setReferenceClock _ => false
  | .wfSetProperty _ _ _ | .wfPoll | .wfResp _ | .wfChangeState _ | .wfFifoReset
  | .wfIntStatus | .wfWriteTxFifo _ | .wfStartTx _ | .wfReqState => false

/-- The budget of an operation's waits: its own operand for WAIT_CTS and READ_RESPONSE, CTS_LIMIT for the others
(40_bus_transport.md R101 to R103). -/
def waitBudget (p : Params) : Instr → Nat
  | .waitCts limit => limit.toNat
  | .readResponse _ limit => limit.toNat
  | _ => p.ctsLimit

/-! ## What a wait reads -/

/-- The bytes a clear-to-send wait reads before the ready byte: none is ready, and fewer than the budget
(40_bus_transport.md R101). -/
abbrev AnsweredWithin (limit : Nat) (w : List Byte) : Prop := w.length < limit ∧ ∀ b ∈ w, b ≠ 0xFF#8

/-- The bytes of a wait that times out: as many as the budget, none ready (40_bus_transport.md R101). -/
abbrev NeverAnswered (limit : Nat) (w : List Byte) : Prop := w.length = limit ∧ ∀ b ∈ w, b ≠ 0xFF#8

/-- The poll frames of a wait that read these bytes. -/
def polls (p : Params) (w : List Byte) : List Event := w.flatMap (framePoll p)

/-- The poll frames of an answered wait: the bytes that were not ready, then the ready one. -/
def answered (p : Params) (w : List Byte) : List Event := polls p (w ++ [0xFF#8])

/-- The bytes the chip gives to several answered waits in a row. -/
def answers (ws : List (List Byte)) : List Byte := ws.flatMap (· ++ [0xFF#8])

/-- The bytes and frames of one guarded command: an answered wait, then the command frame. -/
def guardedFrame (p : Params) (w bytes : List Byte) : List Event := answered p w ++ frameW bytes

/-- `s` after these events, whose last pin edge is a deselect, with `rest` left for the chip to answer. -/
def State.ran (events : List Event) (rest : List Byte) (s : State) : State :=
  { s with
    trace := s.trace ++ events
    rx := rest
    nsel := if events = [] then s.nsel else .high }

/-- The operation `i`, run at `s`, waits for clear-to-send and sends the one command frame `bytes`, after which the
registers are as `after` makes them; if the wait times out, no command frame is sent, the kind is BusTimeout and LC is
Uninitialized (40_bus_transport.md R103, 60_exceptions.md R182, R192). `before` is a register write made before the
wait. -/
def SendsOneFrame (i : Instr) (s : State) (bytes : List Byte) (before after : State → State) : Prop :=
  (∀ w rest, AnsweredWithin s.cfg.ctsLimit w → s.rx = w ++ 0xFF#8 :: rest →
    Ends i s .ok (after ((before s).ran (guardedFrame s.cfg w bytes) rest))) ∧
  (∀ w rest, NeverAnswered s.cfg.ctsLimit w → s.rx = w ++ rest →
    Ends i s .busTimeout { (before s).ran (polls s.cfg w) rest with lc := .uninitialized })

/-! ## Property frames (30_encoding.md R90) -/

/-- The set-property frame's bytes, with its count written out. -/
def propertyBytes (p : Params) (group count start : Byte) (values : List Byte) : List Byte :=
  [p.wSetProperty, group, count, start] ++ values

/-- The three frames of a frequency set: band, PLL, deviation (30_encoding.md R90). -/
def tuningFrames (p : Params) (freqHz refHz deviationHz : Nat) : List (List Byte) :=
  let pll := pllCalc freqHz refHz
  [ propertyBytes p p.wGClkgen 1#8 p.wIClkgenBand [p.wHpBit ||| BitVec.ofNat 8 pll.band],
    propertyBytes p p.wGFreq 6#8 p.wIFreqInte
      (BitVec.ofInt 8 pll.n :: be3 pll.m ++ [0x00#8, 0x02#8]),
    propertyBytes p p.wGDev 3#8 p.wIDev (be3 (devCalc deviationHz pll.outdiv refHz)) ]

/-- The range check of a frequency set (42_frequency_synthesizer.md R132). -/
def Tunable (freqHz refHz deviationHz : Nat) : Prop :=
  0 ≤ (pllCalc freqHz refHz).n ∧ (pllCalc freqHz refHz).n ≤ 255 ∧
    devCalc deviationHz (outdivOf freqHz) refHz < 2 ^ 24

/-- Guarded commands in a row, one wait for each frame. -/
def guardedFrames (p : Params) (ws : List (List Byte)) (frames : List (List Byte)) : List Event :=
  (List.zipWith (guardedFrame p) ws frames).flatten

/-- One 4FSK symbol: a guarded offset frame and its hold (44_modulation_encoder.md R152). -/
def symbolEvents (p : Params) (w : List Byte) (y : BitVec 2) : List Event :=
  guardedFrame p w (propertyBytes p p.wGOffset 2#8 p.wIOffset [0x00#8, BitVec.ofNat 8 (22 * y.toNat)]) ++
    [.dlyMs p.tSymMs]

/-- Several 4FSK symbols in a row, one wait for each. -/
def symbolsEvents (p : Params) (ws : List (List Byte)) (ys : List (BitVec 2)) : List Event :=
  (List.zipWith (symbolEvents p) ws ys).flatten

/-- The operation `i`, run at `s`, sends these 4FSK symbols in order, each guarded and held; a wait that times out ends
it there, with the symbols before it sent and held (44_modulation_encoder.md R152, R153). -/
def SendsSymbols (i : Instr) (s : State) (ys : List (BitVec 2)) : Prop :=
  (∀ ws rest, ws.length = ys.length → (∀ w ∈ ws, AnsweredWithin s.cfg.ctsLimit w) → s.rx = answers ws ++ rest →
    Ends i s .ok (s.ran (symbolsEvents s.cfg ws ys) rest)) ∧
  (∀ ws w rest, ws.length < ys.length → (∀ w ∈ ws, AnsweredWithin s.cfg.ctsLimit w) →
    NeverAnswered s.cfg.ctsLimit w → s.rx = answers ws ++ (w ++ rest) →
    Ends i s .busTimeout
      { s.ran (symbolsEvents s.cfg ws ys ++ polls s.cfg w) rest with lc := .uninitialized })

/-! ## The device-state query (43_fifo_tx_engine.md R143) -/

/-- What one query reads: its two waits and its response bytes. -/
structure Query where
  w1 : List Byte
  w2 : List Byte
  d : List Byte
deriving DecidableEq, Repr

/-- The bytes the chip gives to a query. -/
def Query.bytes (q : Query) : List Byte := q.w1 ++ 0xFF#8 :: (q.w2 ++ 0xFF#8 :: q.d)

/-- The events of a query. -/
def Query.events (p : Params) (q : Query) : List Event :=
  guardedFrame p q.w1 [p.wRequestDeviceState] ++ answered p q.w2 ++ frameR q.d

/-- Queries that saw no done state, each followed by its delay (43_fifo_tx_engine.md R144). -/
def delayedQueries (p : Params) (qs : List Query) : List Event := qs.flatMap fun q => q.events p ++ [.dlyMs 1]

/-- Both waits are answered and the response has its length. -/
abbrev Query.Complete (p : Params) (q : Query) : Prop :=
  AnsweredWithin p.ctsLimit q.w1 ∧ AnsweredWithin p.ctsLimit q.w2 ∧ q.d.length = p.wRdsRespLen

/-- The response's masked first byte is the code of sleep, ready, ready2 or spi_active (43_fifo_tx_engine.md R144). -/
abbrev Query.ReportsDone (p : Params) (q : Query) : Prop :=
  ∃ t ∈ [OpState.sleep, .ready, .ready2, .spiActive], q.d.headD 0#8 &&& p.wStateMask = p.stateCode t

/-! ## The underflow check (43_fifo_tx_engine.md R140) -/

/-- The events of an underflow check that read these waits and status bytes. -/
def underflowEvents (p : Params) (w1 w2 status : List Byte) : List Event :=
  guardedFrame p w1 (p.wGetIntStatus :: p.wIntClearPayload) ++ answered p w2 ++ frameR status

/-- The tested bit of the status bytes (30_encoding.md R84). -/
def UnderflowReported (p : Params) (status : List Byte) : Prop :=
  status.getD p.wUfIndex.val 0#8 &&& p.wUfMask ≠ 0#8

/-! ## The buffered transmission (43_fifo_tx_engine.md R142) -/

/-- The three command frames of START_TX after its underflow check: the FIFO reset, the first 64 bytes, the start with
the total length. -/
def startFrames (p : Params) (buffer : List Byte) : List (List Byte) :=
  [ p.wFifoInfo :: p.wFifoResetArg,
    p.wWriteTxFifo :: buffer.take 64,
    [p.wStartTx, 0x00#8, p.wTxCondSleep, BitVec.ofNat 8 (buffer.length / 256),
      BitVec.ofNat 8 (buffer.length % 256)] ]

/-! ## CONFIGURE (45_system_configuration.md R165) -/

/-- The last level CFG_RESET_SEQ drives on the shutdown line, starting from `l`. -/
def lastLevel (l : Level) : List PinEvent → Level
  | [] => l
  | .sdn l' :: es => lastLevel l' es
  | .dlyMs _ :: es => lastLevel l es

/-- A command frame's bytes. -/
def frameBytes (f : CommandFrame) : List Byte := f.opcode :: f.payload

/-- What CONFIGURE drives before its handshake: the reset sequence, the line driven low first, then the power-up frames
with no wait (45_system_configuration.md R165). -/
def powerUpEvents (p : Params) (cp : ChipParameters) : List Event :=
  .sdn .low :: p.resetTail.map PinEvent.toEvent ++ (powerupFrames p cp).flatMap fun f => frameW (frameBytes f)

/-! ## Safe traces -/

/-- Every byte of the trace stands inside a frame, every select edge is in turn, and pin and delay events stand outside
frames; `selected` says whether a frame is open (10_state.md R30, 20_memory.md R58). -/
def framedFrom (selected : Bool) : List Event → Bool
  | [] => !selected
  | .selL :: es => !selected && framedFrom true es
  | .selH :: es => selected && framedFrom false es
  | .tx _ :: es => selected && framedFrom selected es
  | .rx _ :: es => selected && framedFrom selected es
  | .dlyMs _ :: es => !selected && framedFrom selected es
  | .sdn _ :: es => !selected && framedFrom selected es

/-- A whole trace is framed: it opens and closes each frame it has. -/
def framed (trace : List Event) : Bool := framedFrom false trace

/-- Whether an event writes a byte to the bus. -/
def isWrite : Event → Bool
  | .tx _ => true
  | _ => false

/-- A command frame: it writes at least one byte and reads none (30_encoding.md R92). -/
def isCommandFrame (f : List Event) : Bool := f ≠ [] && f.all isWrite

/-- Every command frame is directly preceded by a poll frame that read the ready byte (20_memory.md R63); `prev` is the
frame before the list. -/
def guardedAfter (p : Params) (prev : List Event) : List (List Event) → Bool
  | [] => true
  | f :: fs =>
    (!isCommandFrame f || prev == [.tx p.wReadCmdBuff, .rx 0xFF#8]) && guardedAfter p f fs

/-- The events of one operation are guarded by its own waits. -/
def ctsGuarded (p : Params) (events : List Event) : Bool := guardedAfter p [] (cutFrames none events)

/-- The last frame of these events, if they have one, is no poll that read another byte than the ready one: what comes
next begins a wait of its own (40_bus_transport.md R101). -/
def NoFailedPollLast (p : Params) (events : List Event) : Prop :=
  ∀ b : Byte, (cutFrames none events).getLast? = some [.tx p.wReadCmdBuff, .rx b] → b = 0xFF#8

/-! ## The invariant of a run -/

/-- What every state of a run has: chip-select released (10_state.md R30) and the trace framed (20_memory.md R58);
REFCLK in the range it can hold (10_state.md R22); LC never left at Configured (10_state.md R28); both context
registers valid once configured (60_exceptions.md R188); RP.power in its range (45_system_configuration.md R165); a lost
configuration recorded in LC (60_exceptions.md R192); and nothing on the pins before CONFIGURE drives the shutdown line
low (70_reset_and_hazards.md R200, R203). -/
structure RunInvariant (s : State) : Prop where
  released : s.nsel = .high
  framed : framed s.trace = true
  refclk_low : 26000000 ≤ s.refclk.toNat
  refclk_high : s.refclk.toNat < 30000000
  not_configured : s.lc ≠ .configured
  carrier_valid : s.lc ≠ .uninitialized → s.carrier ≠ none
  deviation_valid : s.lc ≠ .uninitialized → s.deviation ≠ none
  power_range : s.rp.power.toNat ≤ 127
  lost : s.err = .busTimeout ∨ s.err = .powerUpFailure → s.lc = .uninitialized
  first_event : s.trace = [] ∨ s.trace.head? = some (.sdn .low)
  configured_first : s.lc ≠ .uninitialized → s.trace ≠ []

end Sys2Proof.Machine
end

