-- ==== Sys2Proof/Certificates/Slice0/Obligations.lean ====
section
/-! DEFINITION. The statements for the provers. "Ends", "Returns" and the other terms are in Sys2Proof/Safety.lean:
each of them says that `exec` answers a next state, and which one. -/

open Sys2Proof Sys2Proof.Machine

/-! ## Reset, the step, decoding -/

/-- R36: the state after reset, for every register the spec gives a value. -/
def Obligations.ResetLeavesTheSpecValues : Prop :=
  State.reset.refclk = 26000000#32 ∧ State.reset.carrier = none ∧ State.reset.deviation = none ∧
  State.reset.lc = .uninitialized ∧ State.reset.err = .ok ∧ State.reset.uf = false ∧
  State.reset.nsel = .high ∧ State.reset.trace = []

/-- R200: with no request the RCB waits and emits nothing on its own. -/
def Obligations.WaitsWithoutARequest : Prop :=
  ∀ s : State, s.pending = [] → step s = .next s

/-- R31: the host's next request, taken and decoded, is run as one operation. -/
def Obligations.StepRunsTheDecodedRequest : Prop :=
  ∀ (s : State) (r : Request) (rest : List Request) (i : Instr),
    s.pending = r :: rest → decode s.cfg (.host r) = .ok i →
    step s = exec i { s with pending := rest }

/-- R77: every operation code selects its operation and reads the ports the table names; every other value is
reserved. -/
def Obligations.OperationCodesSelectTheirOperation : Prop :=
  ∀ r : Request,
    (r.op = 0x01#8 → decodeRequest r = .ok (.configure r.cp r.rp)) ∧
    (r.op = 0x02#8 → decodeRequest r = .ok (.setPower r.arg0)) ∧
    (r.op = 0x03#8 → decodeRequest r = .ok (.readContext r.sel)) ∧
    (r.op = 0x10#8 → decodeRequest r = .ok (.sendCommand r.arg0 r.buf)) ∧
    (r.op = 0x11#8 → decodeRequest r = .ok (.waitCts r.arg0)) ∧
    (r.op = 0x12#8 → decodeRequest r = .ok (.readResponse r.arg0 r.arg1)) ∧
    (r.op = 0x20#8 → decodeRequest r = .ok (.setState r.target)) ∧
    (r.op = 0x21#8 → decodeRequest r = .ok .enableTx) ∧
    (r.op = 0x22#8 → decodeRequest r = .ok .inhibitTx) ∧
    (r.op = 0x23#8 → decodeRequest r = .ok .disableTx) ∧
    (r.op = 0x30#8 → decodeRequest r = .ok (.selectOutdiv r.arg0)) ∧
    (r.op = 0x31#8 → decodeRequest r = .ok (.selectBand r.arg0)) ∧
    (r.op = 0x32#8 → decodeRequest r = .ok (.setTxFrequency r.arg0)) ∧
    (r.op = 0x33#8 → decodeRequest r = .ok (.calcDeviation r.arg0)) ∧
    (r.op = 0x34#8 → decodeRequest r = .ok (.setDeviation r.arg0)) ∧
    (r.op = 0x35#8 → decodeRequest r = .ok (.setReferenceClock r.arg0)) ∧
    (r.op = 0x36#8 → decodeRequest r = .ok (.setFrequencyOffset r.arg0)) ∧
    (r.op = 0x40#8 → decodeRequest r = .ok .checkClearUnderflow) ∧
    (r.op = 0x41#8 → decodeRequest r = .ok .clearFifo) ∧
    (r.op = 0x42#8 → decodeRequest r = .ok (.startTx r.buf)) ∧
    (r.op = 0x43#8 → decodeRequest r = .ok (.waitTxComplete r.arg0)) ∧
    (r.op = 0x44#8 → decodeRequest r = .ok .requestDeviceState) ∧
    (r.op = 0x50#8 → decodeRequest r = .ok (.fsk4Write r.buf)) ∧
    (r.op = 0x51#8 → decodeRequest r = .ok (.fsk4WriteByte r.arg0)) ∧
    (r.op = 0x52#8 → decodeRequest r = .ok (.fsk4Preamble r.arg0)) ∧
    (r.op = 0x53#8 → decodeRequest r = .ok .fsk4Idle) ∧
    (r.op = 0x54#8 → decodeRequest r = .ok (.cwMark r.arg0)) ∧
    (r.op = 0x55#8 → decodeRequest r = .ok (.cwSpace r.arg0)) ∧
    (r.op ∉ operationCodes → decodeRequest r = .error (.reservedOp r.op))

/-- R91: a reserved operation code is refused with no event and no register changed but ERR. -/
def Obligations.ReservedCodeIsRefused : Prop :=
  ∀ (s : State) (r : Request) (rest : List Request),
    s.pending = r :: rest → r.op ∉ operationCodes →
    ∃ (v : Word) (bs : List Byte),
      step s = .next { s with pending := rest, err := .refused, ret := v, resp := bs, ended := s.ended + 1 }

/-- Words written out from spec/opcode_table.json and frames written out from R79 to R87 with the default constants
decode to their instructions. -/
def Obligations.WordsOfTheTableDecode : Prop :=
  decodeTableWord 8 0b00000001 = some (.configure ⟨0, 0, 0, 0, 0, 0⟩ ⟨0, 0, 0, 0, .cw, 0, 0⟩) ∧
  decodeTableWord 8 0b00010001 = some (.waitCts 0) ∧
  decodeTableWord 8 0b00100011 = some .disableTx ∧
  decodeTableWord 8 0b00110010 = some (.setTxFrequency 0) ∧
  decodeTableWord 8 0b01000010 = some (.startTx []) ∧
  decodeTableWord 8 0b01010100 = some (.cwMark 0) ∧
  decodeTableWord 8 0b01010110 = none ∧
  decode Params.reference (.wire [.out 0x44#8, .inn]) = .ok .wfPoll ∧
  decode Params.reference (.wire [.out 0x34#8, .out 0x07#8]) = .ok (.wfChangeState .transmitting) ∧
  decode Params.reference (.wire [.out 0x31#8, .out 0x00#8, .out 0x10#8, .out 0x01#8, .out 0x2C#8]) =
    .ok (.wfStartTx 300#16)

/-- Decoding an encoded well-formed instruction gives it back, for every row of the table and every operand value,
whatever the wire constants are, so long as a reader can tell the frames and the state codes apart. -/
def Obligations.DecodingAnEncodedInstructionGivesItBack : Prop :=
  ∀ (p : Params) (i : Instr), p.OpcodesDistinct → (OpState.all.map p.stateCode).Nodup → i.wellFormed = true →
    decode p (encode p i) = .ok i

/-- A wire frame that decodes is the encoding of the instruction it decodes to, whatever the wire constants are. That two
instructions never share an encoding is not claimed: with equal opcode bytes they can (log entry 16). -/
def Obligations.DecodedFrameEncodesBack : Prop :=
  ∀ (p : Params) (f : List Slot) (i : Instr), decode p (.wire f) = .ok i → encode p i = .wire f

/-- R180: every instruction ends; none stops the machine by a fault or a refusal. -/
def Obligations.EveryInstructionAnswersANextState : Prop :=
  ∀ (i : Instr) (s : State), ∃ t : State, exec i s = .next t

/-! ## Arithmetic -/

/-- R120: the band table. -/
def Obligations.BandTableRows : Prop :=
  ∀ f : Nat,
    (f < 177000000 → bandIdx f = 0 ∧ outdivOf f = 24 ∧ bandOf f = 5) ∧
    (177000000 ≤ f → f < 239000000 → bandIdx f = 1 ∧ outdivOf f = 16 ∧ bandOf f = 4) ∧
    (239000000 ≤ f → f < 353000000 → bandIdx f = 2 ∧ outdivOf f = 12 ∧ bandOf f = 3) ∧
    (353000000 ≤ f → f < 525000000 → bandIdx f = 3 ∧ outdivOf f = 8 ∧ bandOf f = 2) ∧
    (525000000 ≤ f → f < 705000000 → bandIdx f = 4 ∧ outdivOf f = 6 ∧ bandOf f = 1) ∧
    (705000000 ≤ f → bandIdx f = 5 ∧ outdivOf f = 4 ∧ bandOf f = 0)

/-- R123: PLLCALC is the real-number calculation of its steps, each rounded down where the rule says so. -/
def Obligations.PllValuesAreTheExactQuotients : Prop :=
  ∀ freqHz refHz : Nat, 0 < (pllCalc freqHz refHz).fPfd →
    let v := pllCalc freqHz refHz
    v.outdiv = outdivOf freqHz ∧ v.band = bandOf freqHz ∧
    (v.fPfd : Int) = ⌊(2 * refHz : ℚ) / v.outdiv⌋ ∧
    v.n = ⌊(freqHz : ℚ) / v.fPfd⌋ - 1 ∧
    (v.m : Int) = ⌊((freqHz : ℚ) / v.fPfd - v.n) * 2 ^ 19⌋

/-- R133: the four laws of the pair (n, m); and R132: when `n` leaves its byte. -/
def Obligations.PllPairEncodesTheRatio : Prop :=
  ∀ freqHz refHz : Nat, 0 < (pllCalc freqHz refHz).fPfd →
    let v := pllCalc freqHz refHz
    ((v.n + 1) * v.fPfd ≤ freqHz ∧ (freqHz : Int) < (v.n + 2) * v.fPfd) ∧
    ((v.m : Int) - 2 ^ 19 = ⌊(2 ^ 19 * ((freqHz : ℚ) - (v.n + 1) * v.fPfd)) / v.fPfd⌋) ∧
    (((v.n : ℚ) + v.m / 2 ^ 19) * v.fPfd ≤ freqHz ∧ (freqHz : ℚ) < ((v.n : ℚ) + (v.m + 1) / 2 ^ 19) * v.fPfd) ∧
    (2 ^ 19 ≤ v.m ∧ v.m < 2 ^ 20) ∧
    (freqHz % v.fPfd = 0 → v.m = 2 ^ 19) ∧
    (v.n < 0 ↔ freqHz < v.fPfd) ∧ (255 < v.n ↔ 257 * v.fPfd ≤ freqHz)

/-- R131: the widths of the calculation, for the clocks REFCLK can hold and 32-bit operands. -/
def Obligations.SynthesizerWidths : Prop :=
  ∀ freqHz refHz deviationHz carrierHz : Nat,
    26000000 ≤ refHz → refHz ≤ 29999999 → freqHz < 2 ^ 32 → deviationHz < 2 ^ 32 →
    2 * refHz ≤ 59999998 ∧ 2 * refHz < 2 ^ 26 ∧
    2166666 ≤ fPfdOf freqHz refHz ∧ fPfdOf freqHz refHz ≤ 14999999 ∧
    (freqHz % fPfdOf freqHz refHz) * 2 ^ 19 < 2 ^ 43 ∧
    freqHz / fPfdOf freqHz refHz ≤ 1982 ∧
    2 ^ 19 * outdivOf carrierHz * deviationHz < 2 ^ 56 ∧
    devCalc deviationHz (outdivOf carrierHz) refHz < 2 ^ 30

/-- R126: DEVCALC is the exact quotient rounded down, 0 at 0, and monotone. -/
def Obligations.DeviationIsTheExactQuotient : Prop :=
  ∀ refHz : Nat, 0 < refHz →
    (∀ d o : Nat, (devCalc d o refHz : Int) = ⌊((2 : ℚ) ^ 19 * o * d) / (2 * refHz)⌋) ∧
    (∀ o : Nat, devCalc 0 o refHz = 0) ∧
    (∀ d d' o : Nat, d ≤ d' → devCalc d o refHz ≤ devCalc d' o refHz) ∧
    (∀ d o o' : Nat, o ≤ o' → devCalc d o refHz ≤ devCalc d o' refHz)

/-- R150, R151: the symbols of a byte are its pairs of bits from the top, and an offset is 22 times its symbol. -/
def Obligations.SymbolsAreThePairsFromTheTop : Prop :=
  (∀ (b : Byte) (k : Fin 4), (sym b k).toNat = b.toNat / 4 ^ (3 - k.val) % 4) ∧
  (∀ b : Byte, (sym b 0 ++ sym b 1 ++ sym b 2 ++ sym b 3 : BitVec 8) = b) ∧
  (∀ b : Byte, symbolsOf b = [sym b 0, sym b 1, sym b 2, sym b 3]) ∧
  offsetLut 0#2 = 0 ∧ offsetLut 1#2 = 22 ∧ offsetLut 2#2 = 44 ∧ offsetLut 3#2 = 66

/-! ## Configuration, power level, context -/

/-- R165: CONFIGURE whose handshake, set-up frames and frequency set all succeed: the pins and frames in their order,
and every register it leaves. -/
def Obligations.ConfigureBringsUpTheChip : Prop :=
  ∀ (cp : ChipParameters) (rp : RadioParameters) (s : State) (w : List Byte) (ws vs : List (List Byte))
    (rest : List Byte),
    rp.power.toNat ≤ 127 → Tunable rp.carrierHz.toNat s.refclk.toNat rp.deviationHz.toNat →
    AnsweredWithin s.cfg.ctsLimit w →
    ws.length = (setupFrames s.cfg cp rp).length → (∀ w ∈ ws, AnsweredWithin s.cfg.ctsLimit w) →
    vs.length = 3 → (∀ w ∈ vs, AnsweredWithin s.cfg.ctsLimit w) →
    s.rx = answers (w :: ws ++ vs) ++ rest →
    Ends (.configure cp rp) s .ok
      { s with
        cp := cp
        rp := rp
        carrier := some rp.carrierHz
        deviation := some rp.deviationHz
        lc := .idle
        sdn := lastLevel .low s.cfg.resetTail
        nsel := .high
        rx := rest
        trace := s.trace ++ powerUpEvents s.cfg cp ++ answered s.cfg w ++
          guardedFrames s.cfg ws ((setupFrames s.cfg cp rp).map frameBytes) ++
          guardedFrames s.cfg vs
            (tuningFrames s.cfg rp.carrierHz.toNat s.refclk.toNat rp.deviationHz.toNat) }

/-- R165, R184: the ends of CONFIGURE other than OK: a power level out of range, before any event; a handshake that
times out; a set-up wait that times out; a frequency set out of range, after the set-up; a frequency-set wait that times
out. LC is left Uninitialized by all but the first. -/
def Obligations.ConfigureStopsWhereItsRuleSays : Prop :=
  ∀ (cp : ChipParameters) (rp : RadioParameters) (s : State),
    (127 < rp.power.toNat → Ends (.configure cp rp) s .rangeFault s) ∧
    (∀ w rest, rp.power.toNat ≤ 127 → NeverAnswered s.cfg.ctsLimit w → s.rx = w ++ rest →
      Ends (.configure cp rp) s .powerUpFailure
        { s with
          cp := cp
          rp := rp
          lc := .uninitialized
          sdn := lastLevel .low s.cfg.resetTail
          nsel := if powerupFrames s.cfg cp = [] ∧ w = [] then s.nsel else .high
          rx := rest
          trace := s.trace ++ powerUpEvents s.cfg cp ++ polls s.cfg w }) ∧
    (∀ w0 ws w rest, rp.power.toNat ≤ 127 → AnsweredWithin s.cfg.ctsLimit w0 →
      ws.length < (setupFrames s.cfg cp rp).length → (∀ w ∈ ws, AnsweredWithin s.cfg.ctsLimit w) →
      NeverAnswered s.cfg.ctsLimit w → s.rx = answers (w0 :: ws) ++ (w ++ rest) →
      Ends (.configure cp rp) s .busTimeout
        { s with
          cp := cp
          rp := rp
          lc := .uninitialized
          sdn := lastLevel .low s.cfg.resetTail
          nsel := .high
          rx := rest
          trace := s.trace ++ powerUpEvents s.cfg cp ++ answered s.cfg w0 ++
            guardedFrames s.cfg ws ((setupFrames s.cfg cp rp).map frameBytes) ++ polls s.cfg w }) ∧
    (∀ w0 ws rest, rp.power.toNat ≤ 127 → AnsweredWithin s.cfg.ctsLimit w0 →
      ws.length = (setupFrames s.cfg cp rp).length → (∀ w ∈ ws, AnsweredWithin s.cfg.ctsLimit w) →
      ¬ Tunable rp.carrierHz.toNat s.refclk.toNat rp.deviationHz.toNat →
      s.rx = answers (w0 :: ws) ++ rest →
      Ends (.configure cp rp) s .rangeFault
        { s with
          cp := cp
          rp := rp
          deviation := some rp.deviationHz
          lc := .uninitialized
          sdn := lastLevel .low s.cfg.resetTail
          nsel := .high
          rx := rest
          trace := s.trace ++ powerUpEvents s.cfg cp ++ answered s.cfg w0 ++
            guardedFrames s.cfg ws ((setupFrames s.cfg cp rp).map frameBytes) }) ∧
    (∀ w0 ws vs w rest, rp.power.toNat ≤ 127 → AnsweredWithin s.cfg.ctsLimit w0 →
      ws.length = (setupFrames s.cfg cp rp).length → (∀ w ∈ ws, AnsweredWithin s.cfg.ctsLimit w) →
      Tunable rp.carrierHz.toNat s.refclk.toNat rp.deviationHz.toNat →
      vs.length < 3 → (∀ w ∈ vs, AnsweredWithin s.cfg.ctsLimit w) →
      NeverAnswered s.cfg.ctsLimit w → s.rx = answers (w0 :: ws ++ vs) ++ (w ++ rest) →
      Ends (.configure cp rp) s .busTimeout
        { s with
          cp := cp
          rp := rp
          carrier := if vs.length = 2 then some rp.carrierHz else s.carrier
          deviation := some rp.deviationHz
          lc := .uninitialized
          sdn := lastLevel .low s.cfg.resetTail
          nsel := .high
          rx := rest
          trace := s.trace ++ powerUpEvents s.cfg cp ++ answered s.cfg w0 ++
            guardedFrames s.cfg ws ((setupFrames s.cfg cp rp).map frameBytes) ++
            guardedFrames s.cfg vs
              (tuningFrames s.cfg rp.carrierHz.toNat s.refclk.toNat rp.deviationHz.toNat) ++ polls s.cfg w })

/-- R166: SET_POWER. -/
def Obligations.SetPowerWritesOneProperty : Prop :=
  ∀ level : Word,
    Selects 0x02#8 (fun r => .setPower r.arg0) ∧ RefusedWhenDown (.setPower level) ∧
    (∀ s : State, s.lc ≠ .uninitialized → 127 < level.toNat → Ends (.setPower level) s .rangeFault s) ∧
    (∀ s : State, s.lc ≠ .uninitialized → level.toNat ≤ 127 →
      SendsOneFrame (.setPower level) s
        [s.cfg.wSetProperty, s.cfg.wGPa, 0x01#8, s.cfg.wIPaPwr, level.setWidth 8] id id)

/-- R167, R37: READ_CONTEXT returns the selected register, and raises Unwritten where its valid bit is clear. -/
def Obligations.ReadContextReturnsTheRegister : Prop :=
  Selects 0x03#8 (fun r => .readContext r.sel) ∧
  ∀ s : State,
    Returns (.readContext .refclk) s s.refclk s ∧
    (∀ v, s.carrier = some v → Returns (.readContext .carrier) s v s) ∧
    (∀ v, s.deviation = some v → Returns (.readContext .deviation) s v s) ∧
    (s.carrier = none → Ends (.readContext .carrier) s .unwritten s) ∧
    (s.deviation = none → Ends (.readContext .deviation) s .unwritten s)

/-- R23: a frequency set that ends in OK, read back at once, yields the exact operand. -/
def Obligations.StoredCarrierReadsBack : Prop :=
  ∀ (f : Word) (s t : State), exec (.setTxFrequency f) s = .next t → t.err = .ok →
    Returns (.readContext .carrier) t f t

/-! ## Bus transport -/

/-- R100: SEND_COMMAND. -/
def Obligations.SendCommandSendsItsFrame : Prop :=
  ∀ (opcode : Word) (payload : List Byte),
    Selects 0x10#8 (fun r => .sendCommand r.arg0 r.buf) ∧ RefusedWhenDown (.sendCommand opcode payload) ∧
    (∀ s : State, s.lc ≠ .uninitialized → 256 ≤ opcode.toNat →
      Ends (.sendCommand opcode payload) s .rangeFault s) ∧
    (∀ s : State, s.lc ≠ .uninitialized → opcode.toNat < 256 →
      Ends (.sendCommand opcode payload) s .ok
        { s with
          trace := s.trace ++ [.selL, .tx (opcode.setWidth 8)] ++ payload.map .tx ++ [.selH]
          nsel := .high })

/-- R101: WAIT_CTS. -/
def Obligations.WaitCtsPollsUpToItsLimit : Prop :=
  ∀ limit : Word,
    Selects 0x11#8 (fun r => .waitCts r.arg0) ∧ RefusedWhenDown (.waitCts limit) ∧
    (∀ (s : State) (w rest : List Byte), s.lc ≠ .uninitialized → AnsweredWithin limit.toNat w →
      s.rx = w ++ 0xFF#8 :: rest → Ends (.waitCts limit) s .ok (s.ran (answered s.cfg w) rest)) ∧
    (∀ (s : State) (w rest : List Byte), s.lc ≠ .uninitialized → NeverAnswered limit.toNat w →
      s.rx = w ++ rest →
      Ends (.waitCts limit) s .busTimeout { s.ran (polls s.cfg w) rest with lc := .uninitialized })

/-- R102: READ_RESPONSE. -/
def Obligations.ReadResponseStreamsItsBytes : Prop :=
  ∀ length limit : Word,
    Selects 0x12#8 (fun r => .readResponse r.arg0 r.arg1) ∧ RefusedWhenDown (.readResponse length limit) ∧
    (∀ (s : State) (w bs rest : List Byte), s.lc ≠ .uninitialized → AnsweredWithin limit.toNat w →
      bs.length = length.toNat → s.rx = w ++ 0xFF#8 :: (bs ++ rest) →
      ∃ v : Word, exec (.readResponse length limit) s = .next
        { s.ran (answered s.cfg w ++ [.selL] ++ bs.map .rx ++ [.selH]) rest with
          err := .ok, ret := v, resp := bs, ended := s.ended + 1 }) ∧
    (∀ (s : State) (w rest : List Byte), s.lc ≠ .uninitialized → NeverAnswered limit.toNat w →
      s.rx = w ++ rest →
      Ends (.readResponse length limit) s .busTimeout
        { s.ran (polls s.cfg w) rest with lc := .uninitialized })

/-! ## State controller -/

/-- R110 to R113: SET_STATE, and the three operations that are SET_STATE of one state. -/
def Obligations.StateOperationsSendTheirCode : Prop :=
  Selects 0x20#8 (fun r => .setState r.target) ∧ Selects 0x21#8 (fun _ => .enableTx) ∧
  Selects 0x22#8 (fun _ => .inhibitTx) ∧ Selects 0x23#8 (fun _ => .disableTx) ∧
  ∀ (i : Instr) (target : OpState),
    (i = .setState target ∨ (i = .enableTx ∧ target = .transmitting) ∨ (i = .inhibitTx ∧ target = .ready) ∨
      (i = .disableTx ∧ target = .sleep)) →
    RefusedWhenDown i ∧
    (∀ s : State, s.lc ≠ .uninitialized →
      SendsOneFrame i s [s.cfg.wChangeState, s.cfg.stateCode target] id
        (fun t => { t with lc := if target = .transmitting then .transmitting else .idle }))

/-! ## Frequency synthesizer -/

/-- R121, R122: SELECT_OUTDIV and SELECT_BAND return their row, in any LC, and write nothing else. -/
def Obligations.SelectorsReturnTheirRow : Prop :=
  Selects 0x30#8 (fun r => .selectOutdiv r.arg0) ∧ Selects 0x31#8 (fun r => .selectBand r.arg0) ∧
  ∀ (f : Word) (s : State),
    Returns (.selectOutdiv f) s
      (if f.toNat < 177000000 then 24 else if f.toNat < 239000000 then 16 else if f.toNat < 353000000 then 12
        else if f.toNat < 525000000 then 8 else if f.toNat < 705000000 then 6 else 4) s ∧
    Returns (.selectBand f) s
      (if f.toNat < 177000000 then 5 else if f.toNat < 239000000 then 4 else if f.toNat < 353000000 then 3
        else if f.toNat < 525000000 then 2 else if f.toNat < 705000000 then 1 else 0) s

/-- R125: SET_TX_FREQUENCY: its checks in their order, its three guarded frames, the carrier it stores, and what a wait
that times out leaves. -/
def Obligations.SetTxFrequencyTunesTheChip : Prop :=
  ∀ f : Word,
    Selects 0x32#8 (fun r => .setTxFrequency r.arg0) ∧ RefusedWhenDown (.setTxFrequency f) ∧
    (∀ s : State, s.lc ≠ .uninitialized → s.deviation = none → Ends (.setTxFrequency f) s .unwritten s) ∧
    (∀ (s : State) (d : Word), s.lc ≠ .uninitialized → s.deviation = some d →
      ¬ Tunable f.toNat s.refclk.toNat d.toNat → Ends (.setTxFrequency f) s .rangeFault s) ∧
    (∀ (s : State) (d : Word) (ws : List (List Byte)) (rest : List Byte), s.lc ≠ .uninitialized →
      s.deviation = some d → Tunable f.toNat s.refclk.toNat d.toNat →
      ws.length = 3 → (∀ w ∈ ws, AnsweredWithin s.cfg.ctsLimit w) → s.rx = answers ws ++ rest →
      Ends (.setTxFrequency f) s .ok
        { s.ran (guardedFrames s.cfg ws (tuningFrames s.cfg f.toNat s.refclk.toNat d.toNat)) rest with
          carrier := some f }) ∧
    (∀ (s : State) (d : Word) (ws : List (List Byte)) (w rest : List Byte), s.lc ≠ .uninitialized →
      s.deviation = some d → Tunable f.toNat s.refclk.toNat d.toNat →
      ws.length < 3 → (∀ w ∈ ws, AnsweredWithin s.cfg.ctsLimit w) → NeverAnswered s.cfg.ctsLimit w →
      s.rx = answers ws ++ (w ++ rest) →
      Ends (.setTxFrequency f) s .busTimeout
        { s.ran (guardedFrames s.cfg ws (tuningFrames s.cfg f.toNat s.refclk.toNat d.toNat) ++ polls s.cfg w) rest with
          carrier := if ws.length = 2 then some f else s.carrier
          lc := .uninitialized })

/-- R127: CALC_DEVIATION returns DEVCALC for the stored carrier, in any LC, for every clock REFCLK can hold (R22). -/
def Obligations.CalcDeviationReturnsTheValue : Prop :=
  Selects 0x33#8 (fun r => .calcDeviation r.arg0) ∧
  ∀ (d : Word) (s : State),
    (s.carrier = none → Ends (.calcDeviation d) s .unwritten s) ∧
    (∀ c, s.carrier = some c → 26000000 ≤ s.refclk.toNat →
      ∃ v : Word, v.toNat = devCalc d.toNat (outdivOf c.toNat) s.refclk.toNat ∧
        Returns (.calcDeviation d) s v s)

/-- R128: SET_DEVIATION. -/
def Obligations.SetDeviationStoresAndSends : Prop :=
  ∀ d : Word,
    Selects 0x34#8 (fun r => .setDeviation r.arg0) ∧ RefusedWhenDown (.setDeviation d) ∧
    (∀ s : State, s.lc ≠ .uninitialized → s.carrier = none → Ends (.setDeviation d) s .unwritten s) ∧
    (∀ (s : State) (c : Word), s.lc ≠ .uninitialized → s.carrier = some c →
      2 ^ 24 ≤ devCalc d.toNat (outdivOf c.toNat) s.refclk.toNat → Ends (.setDeviation d) s .rangeFault s) ∧
    (∀ (s : State) (c : Word), s.lc ≠ .uninitialized → s.carrier = some c →
      devCalc d.toNat (outdivOf c.toNat) s.refclk.toNat < 2 ^ 24 →
      SendsOneFrame (.setDeviation d) s
        (propertyBytes s.cfg s.cfg.wGDev 3#8 s.cfg.wIDev
          (be3 (devCalc d.toNat (outdivOf c.toNat) s.refclk.toNat)))
        (fun t => { t with deviation := some d }) id)

/-- R129: SET_REFERENCE_CLOCK. -/
def Obligations.SetReferenceClockChecksItsRange : Prop :=
  Selects 0x35#8 (fun r => .setReferenceClock r.arg0) ∧
  ∀ (hz : Word) (s : State),
    (26000000 < hz.toNat → hz.toNat < 30000000 →
      Ends (.setReferenceClock hz) s .ok { s with refclk := hz }) ∧
    (hz.toNat ≤ 26000000 ∨ 30000000 ≤ hz.toNat → Ends (.setReferenceClock hz) s .invalidParameter s)

/-- R130: SET_FREQUENCY_OFFSET. -/
def Obligations.SetFrequencyOffsetSendsTheOffset : Prop :=
  ∀ offset : Word,
    Selects 0x36#8 (fun r => .setFrequencyOffset r.arg0) ∧ RefusedWhenDown (.setFrequencyOffset offset) ∧
    (∀ s : State, s.lc ≠ .uninitialized → 2 ^ 16 ≤ offset.toNat →
      Ends (.setFrequencyOffset offset) s .rangeFault s) ∧
    (∀ s : State, s.lc ≠ .uninitialized → offset.toNat < 2 ^ 16 →
      SendsOneFrame (.setFrequencyOffset offset) s
        [s.cfg.wSetProperty, s.cfg.wGOffset, 0x02#8, s.cfg.wIOffset, offset.extractLsb' 8 8, offset.extractLsb' 0 8]
        id id)

/-! ## FIFO TX engine -/

/-- R140: CHECK_CLEAR_UNDERFLOW. -/
def Obligations.UnderflowCheckStoresTheTestedBit : Prop :=
  Selects 0x40#8 (fun _ => .checkClearUnderflow) ∧ RefusedWhenDown .checkClearUnderflow ∧
  (∀ (s : State) (w1 w2 status rest : List Byte) (b : Bool), s.lc ≠ .uninitialized →
    AnsweredWithin s.cfg.ctsLimit w1 → AnsweredWithin s.cfg.ctsLimit w2 → status.length = 7 →
    (b = true ↔ UnderflowReported s.cfg status) → s.rx = answers [w1, w2] ++ (status ++ rest) →
    Returns .checkClearUnderflow s (if b then 1 else 0)
      { s.ran (underflowEvents s.cfg w1 w2 status) rest with uf := b }) ∧
  (∀ (s : State) (w rest : List Byte), s.lc ≠ .uninitialized → NeverAnswered s.cfg.ctsLimit w →
    s.rx = w ++ rest →
    Ends .checkClearUnderflow s .busTimeout { s.ran (polls s.cfg w) rest with lc := .uninitialized }) ∧
  (∀ (s : State) (w1 w rest : List Byte), s.lc ≠ .uninitialized → AnsweredWithin s.cfg.ctsLimit w1 →
    NeverAnswered s.cfg.ctsLimit w → s.rx = answers [w1] ++ (w ++ rest) →
    Ends .checkClearUnderflow s .busTimeout
      { s.ran (guardedFrame s.cfg w1 (s.cfg.wGetIntStatus :: s.cfg.wIntClearPayload) ++ polls s.cfg w) rest with
        lc := .uninitialized })

/-- R141: CLEAR_FIFO: the underflow check first, then the FIFO reset. -/
def Obligations.ClearFifoChecksThenResets : Prop :=
  Selects 0x41#8 (fun _ => .clearFifo) ∧ RefusedWhenDown .clearFifo ∧
  (∀ (s : State) (w1 w2 w3 status rest : List Byte) (b : Bool), s.lc ≠ .uninitialized →
    (∀ w ∈ [w1, w2, w3], AnsweredWithin s.cfg.ctsLimit w) → status.length = 7 →
    (b = true ↔ UnderflowReported s.cfg status) →
    s.rx = answers [w1, w2] ++ (status ++ (answers [w3] ++ rest)) →
    Ends .clearFifo s .ok
      { s.ran (underflowEvents s.cfg w1 w2 status ++
          guardedFrame s.cfg w3 (s.cfg.wFifoInfo :: s.cfg.wFifoResetArg)) rest with uf := b }) ∧
  (∀ (s : State) (w rest : List Byte), s.lc ≠ .uninitialized → NeverAnswered s.cfg.ctsLimit w →
    s.rx = w ++ rest →
    Ends .clearFifo s .busTimeout { s.ran (polls s.cfg w) rest with lc := .uninitialized }) ∧
  (∀ (s : State) (w1 w rest : List Byte), s.lc ≠ .uninitialized → AnsweredWithin s.cfg.ctsLimit w1 →
    NeverAnswered s.cfg.ctsLimit w → s.rx = answers [w1] ++ (w ++ rest) →
    Ends .clearFifo s .busTimeout
      { s.ran (guardedFrame s.cfg w1 (s.cfg.wGetIntStatus :: s.cfg.wIntClearPayload) ++ polls s.cfg w) rest with
        lc := .uninitialized }) ∧
  (∀ (s : State) (w1 w2 w status rest : List Byte) (b : Bool), s.lc ≠ .uninitialized →
    (∀ w ∈ [w1, w2], AnsweredWithin s.cfg.ctsLimit w) → NeverAnswered s.cfg.ctsLimit w → status.length = 7 →
    (b = true ↔ UnderflowReported s.cfg status) →
    s.rx = answers [w1, w2] ++ (status ++ (w ++ rest)) →
    Ends .clearFifo s .busTimeout
      { s.ran (underflowEvents s.cfg w1 w2 status ++ polls s.cfg w) rest with uf := b, lc := .uninitialized })

/-- R142: START_TX: its checks, its underflow check, its three guarded frames, the count it returns, and what each of its
five waits leaves when it times out. -/
def Obligations.StartTxLoadsAndStarts : Prop :=
  ∀ buffer : List Byte,
    Selects 0x42#8 (fun r => .startTx r.buf) ∧ RefusedWhenDown (.startTx buffer) ∧
    (∀ s : State, s.lc ≠ .uninitialized → 65535 < buffer.length → Ends (.startTx buffer) s .rangeFault s) ∧
    (∀ (s : State) (w1 w2 status rest : List Byte) (ws : List (List Byte)) (b : Bool), s.lc ≠ .uninitialized →
      buffer.length ≤ 65535 → AnsweredWithin s.cfg.ctsLimit w1 → AnsweredWithin s.cfg.ctsLimit w2 →
      status.length = 7 → (b = true ↔ UnderflowReported s.cfg status) →
      ws.length = 3 → (∀ w ∈ ws, AnsweredWithin s.cfg.ctsLimit w) →
      s.rx = answers [w1, w2] ++ (status ++ (answers ws ++ rest)) →
      Returns (.startTx buffer) s (BitVec.ofNat 32 (min buffer.length 64))
        { s.ran (underflowEvents s.cfg w1 w2 status ++ guardedFrames s.cfg ws (startFrames s.cfg buffer)) rest with
          uf := b
          lc := .transmitting }) ∧
    (∀ (s : State) (w rest : List Byte), s.lc ≠ .uninitialized → buffer.length ≤ 65535 →
      NeverAnswered s.cfg.ctsLimit w → s.rx = w ++ rest →
      Ends (.startTx buffer) s .busTimeout { s.ran (polls s.cfg w) rest with lc := .uninitialized }) ∧
    (∀ (s : State) (w1 w rest : List Byte), s.lc ≠ .uninitialized → buffer.length ≤ 65535 →
      AnsweredWithin s.cfg.ctsLimit w1 → NeverAnswered s.cfg.ctsLimit w → s.rx = answers [w1] ++ (w ++ rest) →
      Ends (.startTx buffer) s .busTimeout
        { s.ran (guardedFrame s.cfg w1 (s.cfg.wGetIntStatus :: s.cfg.wIntClearPayload) ++ polls s.cfg w) rest with
          lc := .uninitialized }) ∧
    (∀ (s : State) (w1 w2 status w rest : List Byte) (ws : List (List Byte)) (b : Bool), s.lc ≠ .uninitialized →
      buffer.length ≤ 65535 → AnsweredWithin s.cfg.ctsLimit w1 → AnsweredWithin s.cfg.ctsLimit w2 →
      status.length = 7 → (b = true ↔ UnderflowReported s.cfg status) →
      ws.length < 3 → (∀ w ∈ ws, AnsweredWithin s.cfg.ctsLimit w) → NeverAnswered s.cfg.ctsLimit w →
      s.rx = answers [w1, w2] ++ (status ++ (answers ws ++ (w ++ rest))) →
      Ends (.startTx buffer) s .busTimeout
        { s.ran (underflowEvents s.cfg w1 w2 status ++ guardedFrames s.cfg ws (startFrames s.cfg buffer) ++
            polls s.cfg w) rest with
          uf := b
          lc := .uninitialized })

/-- R143: REQUEST_DEVICE_STATE returns the masked first byte of the response and leaves LC alone. -/
def Obligations.DeviceStateQueryReturnsTheCode : Prop :=
  Selects 0x44#8 (fun _ => .requestDeviceState) ∧ RefusedWhenDown .requestDeviceState ∧
  (∀ (s : State) (q : Query) (rest : List Byte), s.lc ≠ .uninitialized → q.Complete s.cfg →
    s.rx = q.bytes ++ rest →
    Returns .requestDeviceState s ((q.d.headD 0#8 &&& s.cfg.wStateMask).setWidth 32)
      (s.ran (q.events s.cfg) rest)) ∧
  (∀ (s : State) (w rest : List Byte), s.lc ≠ .uninitialized → NeverAnswered s.cfg.ctsLimit w →
    s.rx = w ++ rest →
    Ends .requestDeviceState s .busTimeout { s.ran (polls s.cfg w) rest with lc := .uninitialized }) ∧
  (∀ (s : State) (w1 w rest : List Byte), s.lc ≠ .uninitialized → AnsweredWithin s.cfg.ctsLimit w1 →
    NeverAnswered s.cfg.ctsLimit w → s.rx = answers [w1] ++ (w ++ rest) →
    Ends .requestDeviceState s .busTimeout
      { s.ran (guardedFrame s.cfg w1 [s.cfg.wRequestDeviceState] ++ polls s.cfg w) rest with
        lc := .uninitialized })

/-- R144: WAIT_TX_COMPLETE: it ends at the first done state, with LC Idle; with none it makes exactly its number of
queries, each followed by a 1 ms delay, forces sleep last and ends in TxTimeout with LC Idle; a wait that times out,
inside a query or before the sleep frame, ends it there. -/
def Obligations.WaitTxCompletePollsOncePerMillisecond : Prop :=
  ∀ timeoutMs : Word,
    Selects 0x43#8 (fun r => .waitTxComplete r.arg0) ∧ RefusedWhenDown (.waitTxComplete timeoutMs) ∧
    (∀ (s : State) (qs : List Query) (q : Query) (rest : List Byte), s.lc ≠ .uninitialized →
      (∀ q ∈ qs, q.Complete s.cfg ∧ ¬ q.ReportsDone s.cfg) → qs.length < timeoutMs.toNat →
      q.Complete s.cfg → q.ReportsDone s.cfg →
      s.rx = qs.flatMap Query.bytes ++ (q.bytes ++ rest) →
      Ends (.waitTxComplete timeoutMs) s .ok
        { s.ran (delayedQueries s.cfg qs ++ q.events s.cfg) rest with lc := .idle }) ∧
    (∀ (s : State) (qs : List Query) (w rest : List Byte), s.lc ≠ .uninitialized →
      (∀ q ∈ qs, q.Complete s.cfg ∧ ¬ q.ReportsDone s.cfg) → qs.length = timeoutMs.toNat →
      AnsweredWithin s.cfg.ctsLimit w → s.rx = qs.flatMap Query.bytes ++ (answers [w] ++ rest) →
      Ends (.waitTxComplete timeoutMs) s .txTimeout
        { s.ran (delayedQueries s.cfg qs ++ guardedFrame s.cfg w [s.cfg.wChangeState, s.cfg.wStSleep]) rest with
          lc := .idle }) ∧
    (∀ (s : State) (qs : List Query) (w rest : List Byte), s.lc ≠ .uninitialized →
      (∀ q ∈ qs, q.Complete s.cfg ∧ ¬ q.ReportsDone s.cfg) → qs.length ≤ timeoutMs.toNat →
      NeverAnswered s.cfg.ctsLimit w → s.rx = qs.flatMap Query.bytes ++ (w ++ rest) →
      Ends (.waitTxComplete timeoutMs) s .busTimeout
        { s.ran (delayedQueries s.cfg qs ++ polls s.cfg w) rest with lc := .uninitialized }) ∧
    (∀ (s : State) (qs : List Query) (w1 w rest : List Byte), s.lc ≠ .uninitialized →
      (∀ q ∈ qs, q.Complete s.cfg ∧ ¬ q.ReportsDone s.cfg) → qs.length < timeoutMs.toNat →
      AnsweredWithin s.cfg.ctsLimit w1 → NeverAnswered s.cfg.ctsLimit w →
      s.rx = qs.flatMap Query.bytes ++ (answers [w1] ++ (w ++ rest)) →
      Ends (.waitTxComplete timeoutMs) s .busTimeout
        { s.ran (delayedQueries s.cfg qs ++ guardedFrame s.cfg w1 [s.cfg.wRequestDeviceState] ++ polls s.cfg w) rest with
          lc := .uninitialized })

/-! ## Modulation encoder -/

/-- R152: FSK4_WRITEBYTE. -/
def Obligations.WriteByteSendsFourHeldSymbols : Prop :=
  ∀ b : Word,
    Selects 0x51#8 (fun r => .fsk4WriteByte r.arg0) ∧ RefusedWhenDown (.fsk4WriteByte b) ∧
    (∀ s : State, s.lc ≠ .uninitialized → 256 ≤ b.toNat → Ends (.fsk4WriteByte b) s .rangeFault s) ∧
    (∀ s : State, s.lc ≠ .uninitialized → b.toNat < 256 →
      SendsSymbols (.fsk4WriteByte b) s
        [b.extractLsb' 6 2, b.extractLsb' 4 2, b.extractLsb' 2 2, b.extractLsb' 0 2])

/-- R153: FSK4_WRITE. -/
def Obligations.WriteSendsEveryByteInOrder : Prop :=
  ∀ buffer : List Byte,
    Selects 0x50#8 (fun r => .fsk4Write r.buf) ∧ RefusedWhenDown (.fsk4Write buffer) ∧
    (∀ s : State, s.lc ≠ .uninitialized →
      SendsSymbols (.fsk4Write buffer) s
        (buffer.flatMap fun b => [b.extractLsb' 6 2, b.extractLsb' 4 2, b.extractLsb' 2 2, b.extractLsb' 0 2]))

/-- R154: FSK4_PREAMBLE sends the symbols of the byte 0x1B once for each repetition. -/
def Obligations.PreambleRepeatsTheTrainingByte : Prop :=
  ∀ n : Word,
    Selects 0x52#8 (fun r => .fsk4Preamble r.arg0) ∧ RefusedWhenDown (.fsk4Preamble n) ∧
    (∀ s : State, s.lc ≠ .uninitialized →
      SendsSymbols (.fsk4Preamble n) s
        ((List.replicate n.toNat 0x1B#8).flatMap fun b =>
          [b.extractLsb' 6 2, b.extractLsb' 4 2, b.extractLsb' 2 2, b.extractLsb' 0 2]))

/-- R155: FSK4_IDLE sends offset 0 and holds nothing. -/
def Obligations.IdleSendsOffsetZero : Prop :=
  Selects 0x53#8 (fun _ => .fsk4Idle) ∧ RefusedWhenDown .fsk4Idle ∧
  (∀ s : State, s.lc ≠ .uninitialized →
    SendsOneFrame .fsk4Idle s [s.cfg.wSetProperty, s.cfg.wGOffset, 0x02#8, s.cfg.wIOffset, 0x00#8, 0x00#8] id id)

/-- R157, R158: CW_MARK: carrier on, hold, carrier off; and what each of its waits leaves when it times out. -/
def Obligations.MarkKeysTheCarrier : Prop :=
  ∀ units : Word,
    Selects 0x54#8 (fun r => .cwMark r.arg0) ∧ RefusedWhenDown (.cwMark units) ∧
    (∀ (s : State) (w1 w2 rest : List Byte), s.lc ≠ .uninitialized →
      AnsweredWithin s.cfg.ctsLimit w1 → AnsweredWithin s.cfg.ctsLimit w2 → s.rx = answers [w1, w2] ++ rest →
      Ends (.cwMark units) s .ok
        { s.ran (guardedFrame s.cfg w1 [s.cfg.wChangeState, s.cfg.wStTx] ++
            [.dlyMs (units.toNat * (1200 / (s.cfg.wpm : Nat)))] ++
            guardedFrame s.cfg w2 [s.cfg.wChangeState, s.cfg.wStReady]) rest with lc := .idle }) ∧
    (∀ (s : State) (w rest : List Byte), s.lc ≠ .uninitialized → NeverAnswered s.cfg.ctsLimit w →
      s.rx = w ++ rest →
      Ends (.cwMark units) s .busTimeout { s.ran (polls s.cfg w) rest with lc := .uninitialized }) ∧
    (∀ (s : State) (w1 w rest : List Byte), s.lc ≠ .uninitialized → AnsweredWithin s.cfg.ctsLimit w1 →
      NeverAnswered s.cfg.ctsLimit w → s.rx = answers [w1] ++ (w ++ rest) →
      Ends (.cwMark units) s .busTimeout
        { s.ran (guardedFrame s.cfg w1 [s.cfg.wChangeState, s.cfg.wStTx] ++
            [.dlyMs (units.toNat * (1200 / (s.cfg.wpm : Nat)))] ++ polls s.cfg w) rest with
          lc := .uninitialized })

/-- R159: CW_SPACE is a hold and no frame. -/
def Obligations.SpaceOnlyHolds : Prop :=
  ∀ units : Word,
    Selects 0x55#8 (fun r => .cwSpace r.arg0) ∧ RefusedWhenDown (.cwSpace units) ∧
    (∀ s : State, s.lc ≠ .uninitialized →
      Ends (.cwSpace units) s .ok
        { s with trace := s.trace ++ [.dlyMs (units.toNat * (1200 / (s.cfg.wpm : Nat)))] })

/-! ## Wire frames -/

/-- R79, R82, R83, R85, R86: the command frames, byte for byte. That a frame is run by itself, with no wait before it, and
that it leaves ERR, RET, RESP and everything else as it was, is the model's choice (log entry 13). Frames of other counts
are in `FramesOutOfShapeSendNothing`. -/
def Obligations.CommandFramesGoOutAsLaidOut : Prop :=
  ∀ s : State,
    (∀ (g i : Byte) (vs : List Byte), 1 ≤ vs.length → vs.length ≤ 6 →
      exec (.wfSetProperty g i vs) s = .next
        { s with
          trace := s.trace ++ [.selL, .tx s.cfg.wSetProperty, .tx g, .tx (BitVec.ofNat 8 vs.length), .tx i] ++
            vs.map .tx ++ [.selH]
          nsel := .high }) ∧
    (∀ target : OpState, exec (.wfChangeState target) s = .next
      { s with
        trace := s.trace ++ [.selL, .tx s.cfg.wChangeState, .tx (s.cfg.stateCode target), .selH]
        nsel := .high }) ∧
    (exec .wfFifoReset s = .next
      { s with
        trace := s.trace ++ [.selL, .tx s.cfg.wFifoInfo] ++ s.cfg.wFifoResetArg.map .tx ++ [.selH]
        nsel := .high }) ∧
    (∀ data : List Byte, data.length ≤ 64 → exec (.wfWriteTxFifo data) s = .next
      { s with
        trace := s.trace ++ [.selL, .tx s.cfg.wWriteTxFifo] ++ data.map .tx ++ [.selH]
        nsel := .high }) ∧
    (∀ total : BitVec 16, exec (.wfStartTx total) s = .next
      { s with
        trace := s.trace ++ [.selL, .tx s.cfg.wStartTx, .tx 0x00#8, .tx s.cfg.wTxCondSleep,
          .tx (total.extractLsb' 8 8), .tx (total.extractLsb' 0 8), .selH]
        nsel := .high })

/-- R80, R81: the poll frame and the response frame. That RESP keeps the response's bytes when the frame is run by
itself is the model's choice (log entry 13). -/
def Obligations.ReadingFramesReadTheirBytes : Prop :=
  ∀ (s : State) (rest : List Byte),
    (∀ b : Byte, s.rx = b :: rest → exec .wfPoll s = .next
      { s with
        trace := s.trace ++ [.selL, .tx s.cfg.wReadCmdBuff, .rx b, .selH]
        nsel := .high
        rx := rest }) ∧
    (∀ bs : List Byte, s.rx = bs ++ rest → exec (.wfResp bs.length) s = .next
      { s with
        trace := s.trace ++ [.selL] ++ bs.map .rx ++ [.selH]
        nsel := .high
        rx := rest
        resp := bs })

/-- R84, R87: the status-read and device-state exchanges, answered or timed out. That RESP keeps the response's bytes,
and that a time-out is the entry of BusTimeout, when the frame is run by itself, is the model's choice (log
entry 13). -/
def Obligations.ExchangesReadTheirResponse : Prop :=
  ∀ (i : Instr) (s : State) (command : List Byte) (n : Nat),
    (i = .wfIntStatus ∧ command = s.cfg.wGetIntStatus :: s.cfg.wIntClearPayload ∧ n = 7 ∨
      i = .wfReqState ∧ command = [s.cfg.wRequestDeviceState] ∧ n = s.cfg.wRdsRespLen) →
    (∀ w bs rest, AnsweredWithin s.cfg.ctsLimit w → bs.length = n → s.rx = answers [w] ++ (bs ++ rest) →
      exec i s = .next
        { s.ran (frameW command ++ answered s.cfg w ++ frameR bs) rest with resp := bs }) ∧
    (∀ w rest, NeverAnswered s.cfg.ctsLimit w → s.rx = w ++ rest →
      Ends i s .busTimeout { s.ran (frameW command ++ polls s.cfg w) rest with lc := .uninitialized })

/-- The model's choice (log entry 14): a frame the RCB never sends, with a count that does not fit, raises RangeFault
and sends nothing. -/
def Obligations.FramesOutOfShapeSendNothing : Prop :=
  (∀ (s : State) (g i : Byte) (vs : List Byte), vs.length = 0 ∨ 6 < vs.length →
    Ends (.wfSetProperty g i vs) s .rangeFault s) ∧
  (∀ (s : State) (data : List Byte), 64 < data.length → Ends (.wfWriteTxFifo data) s .rangeFault s)

/-! ## The whole machine -/

/-- The invariant holds after reset. -/
def Obligations.InvHoldsAfterReset : Prop := RunInvariant State.reset

/-- Every step keeps the invariant, from any state that has it, whatever the host asks and the chip answers. -/
def Obligations.EveryStepKeepsInv : Prop :=
  ∀ s t : State, RunInvariant s → step s = .next t → RunInvariant t

/-- R189: the gated operations are refused while LC is Uninitialized; no other host operation ever is; a reserved
operation code is answered with the same kind. -/
def Obligations.GatedOperationsAreRefused : Prop :=
  (∀ i : Instr, gated i = true → RefusedWhenDown i) ∧
  (∀ (i : Instr) (s t : State), i.isHostOp = true → gated i = false → exec i s = .next t → t.err ≠ .refused) ∧
  (∀ (i : Instr) (s t : State), s.lc ≠ .uninitialized → exec i s = .next t → i.isHostOp = true → t.err ≠ .refused) ∧
  (∀ (s : State) (r : Request) (rest : List Request), s.pending = r :: rest → r.op ∉ operationCodes →
    ∃ (v : Word) (bs : List Byte),
      step s = .next { s with pending := rest, err := .refused, ret := v, resp := bs, ended := s.ended + 1 })

/-- R181: which operations raise which kind. -/
def Obligations.KindsComeOnlyFromTheirOperations : Prop :=
  ∀ (i : Instr) (s t : State), i.isHostOp = true → exec i s = .next t →
    (t.err = .invalidParameter → ∃ hz, i = .setReferenceClock hz) ∧
    (t.err = .powerUpFailure → ∃ cp rp, i = .configure cp rp) ∧
    (t.err = .txTimeout → ∃ n, i = .waitTxComplete n) ∧
    (t.err = .rangeFault →
      (∃ c bs, i = .sendCommand c bs) ∨ (∃ f, i = .setTxFrequency f) ∨ (∃ d, i = .setDeviation d) ∨
      (∃ o, i = .setFrequencyOffset o) ∨ (∃ l, i = .setPower l) ∨ (∃ cp rp, i = .configure cp rp) ∨
      (∃ bs, i = .startTx bs) ∨ (∃ b, i = .fsk4WriteByte b)) ∧
    (t.err = .unwritten →
      (∃ f, i = .setTxFrequency f) ∨ (∃ d, i = .calcDeviation d) ∨ (∃ d, i = .setDeviation d) ∨
      (∃ sel, i = .readContext sel)) ∧
    (t.err = .refused → gated i = true) ∧
    (t.err = .busTimeout → (∃ cp rp, i = .configure cp rp) ∨ (gated i = true ∧
      (∀ c bs, i ≠ .sendCommand c bs) ∧ (∀ u, i ≠ .cwSpace u)))

/-- R192: the one entry of every fault: ERR takes the kind, BusTimeout and PowerUpFailure also set LC, and the Driver
Context and everything else survive; after the two that lose the configuration every gated operation is refused. -/
def Obligations.TakingAFaultWritesErrAndLc : Prop :=
  ∀ (k : Kind) (s : State),
    (∃ (v : Word) (bs : List Byte),
      s.raise k =
        { s with
          err := k
          lc := if k = .busTimeout ∨ k = .powerUpFailure then .uninitialized else s.lc
          ret := v
          resp := bs
          ended := s.ended + 1 }) ∧
    (k = .busTimeout ∨ k = .powerUpFailure → ∀ i : Instr, gated i = true → Ends i (s.raise k) .refused (s.raise k))

/-- R182, R184: BusTimeout, and PowerUpFailure, come after exactly a whole budget of polls that were not ready: those are
the last events of the operation, what it did before them is whole frames that do not end in a failed poll, and LC is
left Uninitialized. -/
def Obligations.TimeoutsFollowAWholeBudgetOfPolls : Prop :=
  ∀ (i : Instr) (s t : State), i.isHostOp = true → exec i s = .next t →
    t.err = .busTimeout ∨ t.err = .powerUpFailure →
    t.lc = .uninitialized ∧
      ∃ es w, NeverAnswered (waitBudget s.cfg i) w ∧ t.trace = s.trace ++ es ++ polls s.cfg w ∧
        framed es = true ∧ NoFailedPollLast s.cfg es

/-- R203: while LC is Uninitialized only CONFIGURE emits an event or leaves that state. -/
def Obligations.OnlyConfigureActsWhileDown : Prop :=
  ∀ (i : Instr) (s t : State), i.isHostOp = true → (∀ cp rp, i ≠ .configure cp rp) → s.lc = .uninitialized →
    exec i s = .next t → t.trace = s.trace ∧ t.lc = .uninitialized

/-- R22 to R30, R192: who writes the context registers, the parameter groups, the lifecycle register, the underflow bit
and the two pin levels, and with what. (ERR is written by every host operation, R180. That WF_INT_STATUS and WF_REQ_STATE,
run by themselves, enter BusTimeout is the model's choice: log entry 13.) -/
def Obligations.RegistersChangeOnlyByTheirWriters : Prop :=
  ∀ (i : Instr) (s t : State), exec i s = .next t →
    t.cfg = s.cfg ∧ t.pending = s.pending ∧
    (t.refclk ≠ s.refclk → i = .setReferenceClock t.refclk) ∧
    (t.carrier ≠ s.carrier →
      (∃ f, i = .setTxFrequency f ∧ t.carrier = some f) ∨
      (∃ cp rp, i = .configure cp rp ∧ t.carrier = some rp.carrierHz)) ∧
    (t.deviation ≠ s.deviation →
      (∃ d, i = .setDeviation d ∧ t.deviation = some d) ∨
      (∃ cp rp, i = .configure cp rp ∧ t.deviation = some rp.deviationHz)) ∧
    (t.cp ≠ s.cp ∨ t.rp ≠ s.rp → i = .configure t.cp t.rp) ∧
    (t.lc ≠ s.lc →
      (t.lc = .transmitting ∧ (i = .enableTx ∨ i = .setState .transmitting ∨ ∃ bs, i = .startTx bs)) ∨
      (t.lc = .idle ∧ (i = .inhibitTx ∨ i = .disableTx ∨ (∃ g, g ≠ .transmitting ∧ i = .setState g) ∨
        (∃ n, i = .waitTxComplete n) ∨ (∃ u, i = .cwMark u) ∨ ∃ cp rp, i = .configure cp rp)) ∨
      (t.lc = .uninitialized ∧ (t.err = .busTimeout ∨ ∃ cp rp, i = .configure cp rp))) ∧
    (t.uf ≠ s.uf →
      (i = .checkClearUnderflow ∨ i = .clearFifo ∨ ∃ bs, i = .startTx bs) ∧
      ∃ es status, t.trace = s.trace ++ es ∧ status.length = 7 ∧ status.map .rx ∈ cutFrames none es ∧
        (t.uf = true ↔ UnderflowReported s.cfg status)) ∧
    (t.sdn ≠ s.sdn → (∃ cp rp, i = .configure cp rp) ∧ t.sdn = lastLevel .low s.cfg.resetTail) ∧
    (t.nsel ≠ s.nsel → t.nsel = .high)

/-- R30, R35, R58: an instruction only adds to the trace, what it adds is whole frames, and chip-select is released at
its end. -/
def Obligations.EventsAreWholeFrames : Prop :=
  ∀ (i : Instr) (s t : State), exec i s = .next t →
    ∃ es, t.trace = s.trace ++ es ∧ framed es = true ∧ (s.nsel = .high → t.nsel = .high)

/-- R63: every command frame of an operation other than the raw SEND_COMMAND is directly preceded by a poll frame that
read the ready byte; in CONFIGURE, every one after the power-up frames. -/
def Obligations.CommandsFollowAReadyPoll : Prop :=
  ∀ (i : Instr) (s t : State), i.isHostOp = true → exec i s = .next t →
    ((∀ c bs, i ≠ .sendCommand c bs) → (∀ cp rp, i ≠ .configure cp rp) →
      ∃ es, t.trace = s.trace ++ es ∧ ctsGuarded s.cfg es = true) ∧
    (∀ cp rp, i = .configure cp rp →
      (127 < rp.power.toNat ∧ t.trace = s.trace) ∨
      ∃ es, t.trace = s.trace ++ powerUpEvents s.cfg cp ++ es ∧ ctsGuarded s.cfg es = true)

/-- R161: 4FSK operations send only the offset property's frame, gated-carrier operations only the two state
commands. -/
def Obligations.ModesSendOnlyTheirOwnFrames : Prop :=
  ∀ (i : Instr) (s t : State), exec i s = .next t → ∃ es, t.trace = s.trace ++ es ∧
    ((∃ bs, i = .fsk4Write bs) ∨ (∃ b, i = .fsk4WriteByte b) ∨ (∃ n, i = .fsk4Preamble n) ∨ i = .fsk4Idle →
      ∀ f ∈ cutFrames none es, isCommandFrame f = true → ∃ hi lo,
        f = [.tx s.cfg.wSetProperty, .tx s.cfg.wGOffset, .tx 0x02#8, .tx s.cfg.wIOffset, .tx hi, .tx lo]) ∧
    ((∃ u, i = .cwMark u) ∨ (∃ u, i = .cwSpace u) →
      ∀ f ∈ cutFrames none es, isCommandFrame f = true →
        f = [.tx s.cfg.wChangeState, .tx s.cfg.wStTx] ∨ f = [.tx s.cfg.wChangeState, .tx s.cfg.wStReady])

/-- R161: neither mode reads or writes the Driver Context: with other context values the same operation does the
same. -/
def Obligations.ModesIgnoreTheDriverContext : Prop :=
  ∀ (i : Instr) (s t : State) (r : Word) (c d : Option Word),
    ((∃ bs, i = .fsk4Write bs) ∨ (∃ b, i = .fsk4WriteByte b) ∨ (∃ n, i = .fsk4Preamble n) ∨ i = .fsk4Idle ∨
      (∃ u, i = .cwMark u) ∨ (∃ u, i = .cwSpace u)) →
    exec i s = .next t →
    exec i { s with refclk := r, carrier := c, deviation := d } =
      .next { t with refclk := r, carrier := c, deviation := d }

/-- R217: how many events a wait, and how many bus events and holds a 4FSK buffer, can emit. -/
def Obligations.EventCountsAreBounded : Prop :=
  (∀ (limit : Word) (s t : State), exec (.waitCts limit) s = .next t →
    t.trace.length ≤ s.trace.length + 4 * limit.toNat) ∧
  (∀ (buffer : List Byte) (s t : State), exec (.fsk4Write buffer) s = .next t →
    ∃ es, t.trace = s.trace ++ es ∧
      es.length ≤ 4 * buffer.length * (4 * s.cfg.ctsLimit + 8) + es.count (.dlyMs s.cfg.tSymMs) ∧
      es.count (.dlyMs s.cfg.tSymMs) ≤ 4 * buffer.length ∧
      (t.err = .ok → es.count (.dlyMs s.cfg.tSymMs) = 4 * buffer.length))
end

