-- ==== Sys2Proof/Laws/State.lean ====
section
/-! SUPPORT. One lemma per field per named update of State, so that no later proof unfolds a record update. -/

namespace Sys2Proof.Machine

@[simp] theorem State.setLc_refclk (l : Lifecycle) (s : State) : (s.setLc l).refclk = s.refclk := rfl
@[simp] theorem State.setLc_carrier (l : Lifecycle) (s : State) : (s.setLc l).carrier = s.carrier := rfl
@[simp] theorem State.setLc_deviation (l : Lifecycle) (s : State) : (s.setLc l).deviation = s.deviation := rfl
@[simp] theorem State.setLc_cp (l : Lifecycle) (s : State) : (s.setLc l).cp = s.cp := rfl
@[simp] theorem State.setLc_rp (l : Lifecycle) (s : State) : (s.setLc l).rp = s.rp := rfl
@[simp] theorem State.setLc_lc (l : Lifecycle) (s : State) : (s.setLc l).lc = l := rfl
@[simp] theorem State.setLc_err (l : Lifecycle) (s : State) : (s.setLc l).err = s.err := rfl
@[simp] theorem State.setLc_uf (l : Lifecycle) (s : State) : (s.setLc l).uf = s.uf := rfl
@[simp] theorem State.setLc_nsel (l : Lifecycle) (s : State) : (s.setLc l).nsel = s.nsel := rfl
@[simp] theorem State.setLc_sdn (l : Lifecycle) (s : State) : (s.setLc l).sdn = s.sdn := rfl
@[simp] theorem State.setLc_trace (l : Lifecycle) (s : State) : (s.setLc l).trace = s.trace := rfl
@[simp] theorem State.setLc_ret (l : Lifecycle) (s : State) : (s.setLc l).ret = s.ret := rfl
@[simp] theorem State.setLc_resp (l : Lifecycle) (s : State) : (s.setLc l).resp = s.resp := rfl
@[simp] theorem State.setLc_cfg (l : Lifecycle) (s : State) : (s.setLc l).cfg = s.cfg := rfl
@[simp] theorem State.setLc_pending (l : Lifecycle) (s : State) : (s.setLc l).pending = s.pending := rfl
@[simp] theorem State.setLc_rx (l : Lifecycle) (s : State) : (s.setLc l).rx = s.rx := rfl
@[simp] theorem State.setLc_reads (l : Lifecycle) (s : State) : (s.setLc l).reads = s.reads := rfl
@[simp] theorem State.setLc_ended (l : Lifecycle) (s : State) : (s.setLc l).ended = s.ended := rfl

@[simp] theorem State.setRefclk_refclk (hz : Word) (s : State) : (s.setRefclk hz).refclk = hz := rfl
@[simp] theorem State.setRefclk_carrier (hz : Word) (s : State) : (s.setRefclk hz).carrier = s.carrier := rfl
@[simp] theorem State.setRefclk_deviation (hz : Word) (s : State) : (s.setRefclk hz).deviation = s.deviation := rfl
@[simp] theorem State.setRefclk_cp (hz : Word) (s : State) : (s.setRefclk hz).cp = s.cp := rfl
@[simp] theorem State.setRefclk_rp (hz : Word) (s : State) : (s.setRefclk hz).rp = s.rp := rfl
@[simp] theorem State.setRefclk_lc (hz : Word) (s : State) : (s.setRefclk hz).lc = s.lc := rfl
@[simp] theorem State.setRefclk_err (hz : Word) (s : State) : (s.setRefclk hz).err = s.err := rfl
@[simp] theorem State.setRefclk_uf (hz : Word) (s : State) : (s.setRefclk hz).uf = s.uf := rfl
@[simp] theorem State.setRefclk_nsel (hz : Word) (s : State) : (s.setRefclk hz).nsel = s.nsel := rfl
@[simp] theorem State.setRefclk_sdn (hz : Word) (s : State) : (s.setRefclk hz).sdn = s.sdn := rfl
@[simp] theorem State.setRefclk_trace (hz : Word) (s : State) : (s.setRefclk hz).trace = s.trace := rfl
@[simp] theorem State.setRefclk_ret (hz : Word) (s : State) : (s.setRefclk hz).ret = s.ret := rfl
@[simp] theorem State.setRefclk_resp (hz : Word) (s : State) : (s.setRefclk hz).resp = s.resp := rfl
@[simp] theorem State.setRefclk_cfg (hz : Word) (s : State) : (s.setRefclk hz).cfg = s.cfg := rfl
@[simp] theorem State.setRefclk_pending (hz : Word) (s : State) : (s.setRefclk hz).pending = s.pending := rfl
@[simp] theorem State.setRefclk_rx (hz : Word) (s : State) : (s.setRefclk hz).rx = s.rx := rfl
@[simp] theorem State.setRefclk_reads (hz : Word) (s : State) : (s.setRefclk hz).reads = s.reads := rfl
@[simp] theorem State.setRefclk_ended (hz : Word) (s : State) : (s.setRefclk hz).ended = s.ended := rfl

@[simp] theorem State.setCarrier_refclk (hz : Word) (s : State) : (s.setCarrier hz).refclk = s.refclk := rfl
@[simp] theorem State.setCarrier_carrier (hz : Word) (s : State) : (s.setCarrier hz).carrier = some hz := rfl
@[simp] theorem State.setCarrier_deviation (hz : Word) (s : State) : (s.setCarrier hz).deviation = s.deviation := rfl
@[simp] theorem State.setCarrier_cp (hz : Word) (s : State) : (s.setCarrier hz).cp = s.cp := rfl
@[simp] theorem State.setCarrier_rp (hz : Word) (s : State) : (s.setCarrier hz).rp = s.rp := rfl
@[simp] theorem State.setCarrier_lc (hz : Word) (s : State) : (s.setCarrier hz).lc = s.lc := rfl
@[simp] theorem State.setCarrier_err (hz : Word) (s : State) : (s.setCarrier hz).err = s.err := rfl
@[simp] theorem State.setCarrier_uf (hz : Word) (s : State) : (s.setCarrier hz).uf = s.uf := rfl
@[simp] theorem State.setCarrier_nsel (hz : Word) (s : State) : (s.setCarrier hz).nsel = s.nsel := rfl
@[simp] theorem State.setCarrier_sdn (hz : Word) (s : State) : (s.setCarrier hz).sdn = s.sdn := rfl
@[simp] theorem State.setCarrier_trace (hz : Word) (s : State) : (s.setCarrier hz).trace = s.trace := rfl
@[simp] theorem State.setCarrier_ret (hz : Word) (s : State) : (s.setCarrier hz).ret = s.ret := rfl
@[simp] theorem State.setCarrier_resp (hz : Word) (s : State) : (s.setCarrier hz).resp = s.resp := rfl
@[simp] theorem State.setCarrier_cfg (hz : Word) (s : State) : (s.setCarrier hz).cfg = s.cfg := rfl
@[simp] theorem State.setCarrier_pending (hz : Word) (s : State) : (s.setCarrier hz).pending = s.pending := rfl
@[simp] theorem State.setCarrier_rx (hz : Word) (s : State) : (s.setCarrier hz).rx = s.rx := rfl
@[simp] theorem State.setCarrier_reads (hz : Word) (s : State) : (s.setCarrier hz).reads = s.reads := rfl
@[simp] theorem State.setCarrier_ended (hz : Word) (s : State) : (s.setCarrier hz).ended = s.ended := rfl

@[simp] theorem State.setDeviation_refclk (hz : Word) (s : State) : (s.setDeviation hz).refclk = s.refclk := rfl
@[simp] theorem State.setDeviation_carrier (hz : Word) (s : State) : (s.setDeviation hz).carrier = s.carrier := rfl
@[simp] theorem State.setDeviation_deviation (hz : Word) (s : State) : (s.setDeviation hz).deviation = some hz := rfl
@[simp] theorem State.setDeviation_cp (hz : Word) (s : State) : (s.setDeviation hz).cp = s.cp := rfl
@[simp] theorem State.setDeviation_rp (hz : Word) (s : State) : (s.setDeviation hz).rp = s.rp := rfl
@[simp] theorem State.setDeviation_lc (hz : Word) (s : State) : (s.setDeviation hz).lc = s.lc := rfl
@[simp] theorem State.setDeviation_err (hz : Word) (s : State) : (s.setDeviation hz).err = s.err := rfl
@[simp] theorem State.setDeviation_uf (hz : Word) (s : State) : (s.setDeviation hz).uf = s.uf := rfl
@[simp] theorem State.setDeviation_nsel (hz : Word) (s : State) : (s.setDeviation hz).nsel = s.nsel := rfl
@[simp] theorem State.setDeviation_sdn (hz : Word) (s : State) : (s.setDeviation hz).sdn = s.sdn := rfl
@[simp] theorem State.setDeviation_trace (hz : Word) (s : State) : (s.setDeviation hz).trace = s.trace := rfl
@[simp] theorem State.setDeviation_ret (hz : Word) (s : State) : (s.setDeviation hz).ret = s.ret := rfl
@[simp] theorem State.setDeviation_resp (hz : Word) (s : State) : (s.setDeviation hz).resp = s.resp := rfl
@[simp] theorem State.setDeviation_cfg (hz : Word) (s : State) : (s.setDeviation hz).cfg = s.cfg := rfl
@[simp] theorem State.setDeviation_pending (hz : Word) (s : State) : (s.setDeviation hz).pending = s.pending := rfl
@[simp] theorem State.setDeviation_rx (hz : Word) (s : State) : (s.setDeviation hz).rx = s.rx := rfl
@[simp] theorem State.setDeviation_reads (hz : Word) (s : State) : (s.setDeviation hz).reads = s.reads := rfl
@[simp] theorem State.setDeviation_ended (hz : Word) (s : State) : (s.setDeviation hz).ended = s.ended := rfl

@[simp] theorem State.setUf_refclk (b : Bool) (s : State) : (s.setUf b).refclk = s.refclk := rfl
@[simp] theorem State.setUf_carrier (b : Bool) (s : State) : (s.setUf b).carrier = s.carrier := rfl
@[simp] theorem State.setUf_deviation (b : Bool) (s : State) : (s.setUf b).deviation = s.deviation := rfl
@[simp] theorem State.setUf_cp (b : Bool) (s : State) : (s.setUf b).cp = s.cp := rfl
@[simp] theorem State.setUf_rp (b : Bool) (s : State) : (s.setUf b).rp = s.rp := rfl
@[simp] theorem State.setUf_lc (b : Bool) (s : State) : (s.setUf b).lc = s.lc := rfl
@[simp] theorem State.setUf_err (b : Bool) (s : State) : (s.setUf b).err = s.err := rfl
@[simp] theorem State.setUf_uf (b : Bool) (s : State) : (s.setUf b).uf = b := rfl
@[simp] theorem State.setUf_nsel (b : Bool) (s : State) : (s.setUf b).nsel = s.nsel := rfl
@[simp] theorem State.setUf_sdn (b : Bool) (s : State) : (s.setUf b).sdn = s.sdn := rfl
@[simp] theorem State.setUf_trace (b : Bool) (s : State) : (s.setUf b).trace = s.trace := rfl
@[simp] theorem State.setUf_ret (b : Bool) (s : State) : (s.setUf b).ret = s.ret := rfl
@[simp] theorem State.setUf_resp (b : Bool) (s : State) : (s.setUf b).resp = s.resp := rfl
@[simp] theorem State.setUf_cfg (b : Bool) (s : State) : (s.setUf b).cfg = s.cfg := rfl
@[simp] theorem State.setUf_pending (b : Bool) (s : State) : (s.setUf b).pending = s.pending := rfl
@[simp] theorem State.setUf_rx (b : Bool) (s : State) : (s.setUf b).rx = s.rx := rfl
@[simp] theorem State.setUf_reads (b : Bool) (s : State) : (s.setUf b).reads = s.reads := rfl
@[simp] theorem State.setUf_ended (b : Bool) (s : State) : (s.setUf b).ended = s.ended := rfl

@[simp] theorem State.latch_refclk (cp : ChipParameters) (rp : RadioParameters) (s : State) : (s.latch cp rp).refclk = s.refclk := rfl
@[simp] theorem State.latch_carrier (cp : ChipParameters) (rp : RadioParameters) (s : State) : (s.latch cp rp).carrier = s.carrier := rfl
@[simp] theorem State.latch_deviation (cp : ChipParameters) (rp : RadioParameters) (s : State) : (s.latch cp rp).deviation = s.deviation := rfl
@[simp] theorem State.latch_cp (cp : ChipParameters) (rp : RadioParameters) (s : State) : (s.latch cp rp).cp = cp := rfl
@[simp] theorem State.latch_rp (cp : ChipParameters) (rp : RadioParameters) (s : State) : (s.latch cp rp).rp = rp := rfl
@[simp] theorem State.latch_lc (cp : ChipParameters) (rp : RadioParameters) (s : State) : (s.latch cp rp).lc = s.lc := rfl
@[simp] theorem State.latch_err (cp : ChipParameters) (rp : RadioParameters) (s : State) : (s.latch cp rp).err = s.err := rfl
@[simp] theorem State.latch_uf (cp : ChipParameters) (rp : RadioParameters) (s : State) : (s.latch cp rp).uf = s.uf := rfl
@[simp] theorem State.latch_nsel (cp : ChipParameters) (rp : RadioParameters) (s : State) : (s.latch cp rp).nsel = s.nsel := rfl
@[simp] theorem State.latch_sdn (cp : ChipParameters) (rp : RadioParameters) (s : State) : (s.latch cp rp).sdn = s.sdn := rfl
@[simp] theorem State.latch_trace (cp : ChipParameters) (rp : RadioParameters) (s : State) : (s.latch cp rp).trace = s.trace := rfl
@[simp] theorem State.latch_ret (cp : ChipParameters) (rp : RadioParameters) (s : State) : (s.latch cp rp).ret = s.ret := rfl
@[simp] theorem State.latch_resp (cp : ChipParameters) (rp : RadioParameters) (s : State) : (s.latch cp rp).resp = s.resp := rfl
@[simp] theorem State.latch_cfg (cp : ChipParameters) (rp : RadioParameters) (s : State) : (s.latch cp rp).cfg = s.cfg := rfl
@[simp] theorem State.latch_pending (cp : ChipParameters) (rp : RadioParameters) (s : State) : (s.latch cp rp).pending = s.pending := rfl
@[simp] theorem State.latch_rx (cp : ChipParameters) (rp : RadioParameters) (s : State) : (s.latch cp rp).rx = s.rx := rfl
@[simp] theorem State.latch_reads (cp : ChipParameters) (rp : RadioParameters) (s : State) : (s.latch cp rp).reads = s.reads := rfl
@[simp] theorem State.latch_ended (cp : ChipParameters) (rp : RadioParameters) (s : State) : (s.latch cp rp).ended = s.ended := rfl

@[simp] theorem State.emit_refclk (e : Event) (s : State) : (s.emit e).refclk = s.refclk := rfl
@[simp] theorem State.emit_carrier (e : Event) (s : State) : (s.emit e).carrier = s.carrier := rfl
@[simp] theorem State.emit_deviation (e : Event) (s : State) : (s.emit e).deviation = s.deviation := rfl
@[simp] theorem State.emit_cp (e : Event) (s : State) : (s.emit e).cp = s.cp := rfl
@[simp] theorem State.emit_rp (e : Event) (s : State) : (s.emit e).rp = s.rp := rfl
@[simp] theorem State.emit_lc (e : Event) (s : State) : (s.emit e).lc = s.lc := rfl
@[simp] theorem State.emit_err (e : Event) (s : State) : (s.emit e).err = s.err := rfl
@[simp] theorem State.emit_uf (e : Event) (s : State) : (s.emit e).uf = s.uf := rfl
@[simp] theorem State.emit_nsel (e : Event) (s : State) : (s.emit e).nsel = nselAfter s.nsel e := rfl
@[simp] theorem State.emit_sdn (e : Event) (s : State) : (s.emit e).sdn = sdnAfter s.sdn e := rfl
@[simp] theorem State.emit_trace (e : Event) (s : State) : (s.emit e).trace = s.trace ++ [e] := rfl
@[simp] theorem State.emit_ret (e : Event) (s : State) : (s.emit e).ret = s.ret := rfl
@[simp] theorem State.emit_resp (e : Event) (s : State) : (s.emit e).resp = s.resp := rfl
@[simp] theorem State.emit_cfg (e : Event) (s : State) : (s.emit e).cfg = s.cfg := rfl
@[simp] theorem State.emit_pending (e : Event) (s : State) : (s.emit e).pending = s.pending := rfl
@[simp] theorem State.emit_rx (e : Event) (s : State) : (s.emit e).rx = s.rx := rfl
@[simp] theorem State.emit_reads (e : Event) (s : State) : (s.emit e).reads = s.reads := rfl
@[simp] theorem State.emit_ended (e : Event) (s : State) : (s.emit e).ended = s.ended := rfl

@[simp] theorem State.returnOk_refclk (r : Result) (s : State) : (s.returnOk r).refclk = s.refclk := rfl
@[simp] theorem State.returnOk_carrier (r : Result) (s : State) : (s.returnOk r).carrier = s.carrier := rfl
@[simp] theorem State.returnOk_deviation (r : Result) (s : State) : (s.returnOk r).deviation = s.deviation := rfl
@[simp] theorem State.returnOk_cp (r : Result) (s : State) : (s.returnOk r).cp = s.cp := rfl
@[simp] theorem State.returnOk_rp (r : Result) (s : State) : (s.returnOk r).rp = s.rp := rfl
@[simp] theorem State.returnOk_lc (r : Result) (s : State) : (s.returnOk r).lc = s.lc := rfl
@[simp] theorem State.returnOk_err (r : Result) (s : State) : (s.returnOk r).err = .ok := rfl
@[simp] theorem State.returnOk_uf (r : Result) (s : State) : (s.returnOk r).uf = s.uf := rfl
@[simp] theorem State.returnOk_nsel (r : Result) (s : State) : (s.returnOk r).nsel = s.nsel := rfl
@[simp] theorem State.returnOk_sdn (r : Result) (s : State) : (s.returnOk r).sdn = s.sdn := rfl
@[simp] theorem State.returnOk_trace (r : Result) (s : State) : (s.returnOk r).trace = s.trace := rfl
@[simp] theorem State.returnOk_ret (r : Result) (s : State) : (s.returnOk r).ret = r.ret.getD (Config.freeRet s.ended) := rfl
@[simp] theorem State.returnOk_resp (r : Result) (s : State) : (s.returnOk r).resp = r.resp.getD (Config.freeResp s.ended) := rfl
@[simp] theorem State.returnOk_cfg (r : Result) (s : State) : (s.returnOk r).cfg = s.cfg := rfl
@[simp] theorem State.returnOk_pending (r : Result) (s : State) : (s.returnOk r).pending = s.pending := rfl
@[simp] theorem State.returnOk_rx (r : Result) (s : State) : (s.returnOk r).rx = s.rx := rfl
@[simp] theorem State.returnOk_reads (r : Result) (s : State) : (s.returnOk r).reads = s.reads := rfl
@[simp] theorem State.returnOk_ended (r : Result) (s : State) : (s.returnOk r).ended = s.ended + 1 := rfl

@[simp] theorem State.raise_refclk (k : Kind) (s : State) : (s.raise k).refclk = s.refclk := rfl
@[simp] theorem State.raise_carrier (k : Kind) (s : State) : (s.raise k).carrier = s.carrier := rfl
@[simp] theorem State.raise_deviation (k : Kind) (s : State) : (s.raise k).deviation = s.deviation := rfl
@[simp] theorem State.raise_cp (k : Kind) (s : State) : (s.raise k).cp = s.cp := rfl
@[simp] theorem State.raise_rp (k : Kind) (s : State) : (s.raise k).rp = s.rp := rfl
@[simp] theorem State.raise_lc (k : Kind) (s : State) : (s.raise k).lc = (if losesConfiguration k then .uninitialized else s.lc) := rfl
@[simp] theorem State.raise_err (k : Kind) (s : State) : (s.raise k).err = k := rfl
@[simp] theorem State.raise_uf (k : Kind) (s : State) : (s.raise k).uf = s.uf := rfl
@[simp] theorem State.raise_nsel (k : Kind) (s : State) : (s.raise k).nsel = s.nsel := rfl
@[simp] theorem State.raise_sdn (k : Kind) (s : State) : (s.raise k).sdn = s.sdn := rfl
@[simp] theorem State.raise_trace (k : Kind) (s : State) : (s.raise k).trace = s.trace := rfl
@[simp] theorem State.raise_ret (k : Kind) (s : State) : (s.raise k).ret = Config.freeRet s.ended := rfl
@[simp] theorem State.raise_resp (k : Kind) (s : State) : (s.raise k).resp = Config.freeResp s.ended := rfl
@[simp] theorem State.raise_cfg (k : Kind) (s : State) : (s.raise k).cfg = s.cfg := rfl
@[simp] theorem State.raise_pending (k : Kind) (s : State) : (s.raise k).pending = s.pending := rfl
@[simp] theorem State.raise_rx (k : Kind) (s : State) : (s.raise k).rx = s.rx := rfl
@[simp] theorem State.raise_reads (k : Kind) (s : State) : (s.raise k).reads = s.reads := rfl
@[simp] theorem State.raise_ended (k : Kind) (s : State) : (s.raise k).ended = s.ended + 1 := rfl

/-- Several events are the same as the events appended at once, with the pins where the last edges leave them. -/
theorem State.emits_eq (es : List Event) (s : State) :
    s.emits es =
      { s with trace := s.trace ++ es, nsel := es.foldl nselAfter s.nsel, sdn := es.foldl sdnAfter s.sdn } := by
  induction es generalizing s with
  | nil => simp [State.emits]
  | cons e es ih =>
    have h : s.emits (e :: es) = (s.emit e).emits es := rfl
    rw [h, ih]
    simp [State.emit, List.append_assoc]

@[simp] theorem State.emits_refclk (es : List Event) (s : State) : (s.emits es).refclk = s.refclk := by
  rw [State.emits_eq]
@[simp] theorem State.emits_carrier (es : List Event) (s : State) : (s.emits es).carrier = s.carrier := by
  rw [State.emits_eq]
@[simp] theorem State.emits_deviation (es : List Event) (s : State) : (s.emits es).deviation = s.deviation := by
  rw [State.emits_eq]
@[simp] theorem State.emits_cp (es : List Event) (s : State) : (s.emits es).cp = s.cp := by
  rw [State.emits_eq]
@[simp] theorem State.emits_rp (es : List Event) (s : State) : (s.emits es).rp = s.rp := by
  rw [State.emits_eq]
@[simp] theorem State.emits_lc (es : List Event) (s : State) : (s.emits es).lc = s.lc := by
  rw [State.emits_eq]
@[simp] theorem State.emits_err (es : List Event) (s : State) : (s.emits es).err = s.err := by
  rw [State.emits_eq]
@[simp] theorem State.emits_uf (es : List Event) (s : State) : (s.emits es).uf = s.uf := by
  rw [State.emits_eq]
@[simp] theorem State.emits_nsel (es : List Event) (s : State) : (s.emits es).nsel = es.foldl nselAfter s.nsel := by
  rw [State.emits_eq]
@[simp] theorem State.emits_sdn (es : List Event) (s : State) : (s.emits es).sdn = es.foldl sdnAfter s.sdn := by
  rw [State.emits_eq]
@[simp] theorem State.emits_trace (es : List Event) (s : State) : (s.emits es).trace = s.trace ++ es := by
  rw [State.emits_eq]
@[simp] theorem State.emits_ret (es : List Event) (s : State) : (s.emits es).ret = s.ret := by
  rw [State.emits_eq]
@[simp] theorem State.emits_resp (es : List Event) (s : State) : (s.emits es).resp = s.resp := by
  rw [State.emits_eq]
@[simp] theorem State.emits_cfg (es : List Event) (s : State) : (s.emits es).cfg = s.cfg := by
  rw [State.emits_eq]
@[simp] theorem State.emits_pending (es : List Event) (s : State) : (s.emits es).pending = s.pending := by
  rw [State.emits_eq]
@[simp] theorem State.emits_rx (es : List Event) (s : State) : (s.emits es).rx = s.rx := by
  rw [State.emits_eq]
@[simp] theorem State.emits_reads (es : List Event) (s : State) : (s.emits es).reads = s.reads := by
  rw [State.emits_eq]
@[simp] theorem State.emits_ended (es : List Event) (s : State) : (s.emits es).ended = s.ended := by
  rw [State.emits_eq]

end Sys2Proof.Machine
end

