-- ==== Sys2Proof/Laws/Ops.lean ====
section
/-! SUPPORT. What each shared operation of Machine/Ops.lean can do, said once: the lemmas proofs cite instead of
unfolding it. -/

namespace Sys2Proof.Machine

/-! ## Sequencing -/

@[simp] theorem Ran.bind_done {α β : Type} (a : α) (s : State) (f : α → State → Ran β) :
    (Ran.done a s).bind f = f a s := rfl

@[simp] theorem Ran.bind_raised {α β : Type} (k : Kind) (s : State) (f : α → State → Ran β) :
    (Ran.raised k s).bind f = .raised k s := rfl

@[simp] theorem Ran.converting_done {α : Type} (k k' : Kind) (a : α) (s : State) :
    (Ran.done a s).converting k k' = .done a s := rfl

@[simp] theorem Ran.converting_raised {α : Type} (k k' j : Kind) (s : State) :
    (Ran.raised (α := α) j s).converting k k' = .raised (if j = k then k' else j) s := rfl

theorem Ran.bind_assoc {α β γ : Type} (r : Ran α) (f : α → State → Ran β) (g : β → State → Ran γ) :
    (r.bind f).bind g = r.bind fun a s => (f a s).bind g := by
  cases r <;> rfl

@[simp] theorem require_true (k : Kind) (s : State) : require true k s = .done () s := rfl

@[simp] theorem require_false (k : Kind) (s : State) : require false k s = .raised k s := rfl

/-- A check that passes. -/
theorem require_pos {P : Prop} [Decidable P] (h : P) (k : Kind) (s : State) :
    require (decide P) k s = .done () s := by simp [require, h]

/-- A check that fails. -/
theorem require_neg {P : Prop} [Decidable P] (h : ¬ P) (k : Kind) (s : State) :
    require (decide P) k s = .raised k s := by simp [require, h]

theorem requireUp_up {s : State} (h : s.lc ≠ .uninitialized) : requireUp s = .done () s := by
  simp [requireUp, require, h]

theorem requireUp_down {s : State} (h : s.lc = .uninitialized) : requireUp s = .raised .refused s := by
  simp [requireUp, require, h]

@[simp] theorem Ran.settle_done (v : Result) (s : State) : (Ran.done v s).settle = s.returnOk v := rfl

@[simp] theorem Ran.settle_raised (k : Kind) (s : State) : (Ran.raised k s).settle = s.raise k := rfl

@[simp] theorem Ran.settleFrame_none (s : State) : (Ran.done none s).settleFrame = s := rfl

@[simp] theorem Ran.settleFrame_some (bs : List Byte) (s : State) :
    (Ran.done (some bs) s).settleFrame = { s with resp := bs } := rfl

@[simp] theorem Ran.settleFrame_raised (k : Kind) (s : State) : (Ran.raised k s).settleFrame = s.raise k := rfl

/-! ## Frames on the pins -/

@[simp] theorem foldl_nselAfter_tx (bs : List Byte) (l : Level) :
    (bs.map Event.tx).foldl nselAfter l = l := by
  induction bs with
  | nil => rfl
  | cons b bs ih => simpa [nselAfter] using ih

@[simp] theorem foldl_nselAfter_rx (bs : List Byte) (l : Level) :
    (bs.map Event.rx).foldl nselAfter l = l := by
  induction bs with
  | nil => rfl
  | cons b bs ih => simpa [nselAfter] using ih

@[simp] theorem foldl_sdnAfter_tx (bs : List Byte) (l : Level) :
    (bs.map Event.tx).foldl sdnAfter l = l := by
  induction bs with
  | nil => rfl
  | cons b bs ih => simpa [sdnAfter] using ih

@[simp] theorem foldl_sdnAfter_rx (bs : List Byte) (l : Level) :
    (bs.map Event.rx).foldl sdnAfter l = l := by
  induction bs with
  | nil => rfl
  | cons b bs ih => simpa [sdnAfter] using ih

@[simp] theorem foldl_nselAfter_frameW (bs : List Byte) (l : Level) :
    (frameW bs).foldl nselAfter l = .high := by simp [frameW, nselAfter]

@[simp] theorem foldl_nselAfter_frameR (bs : List Byte) (l : Level) :
    (frameR bs).foldl nselAfter l = .high := by simp [frameR, nselAfter]

@[simp] theorem foldl_nselAfter_framePoll (p : Params) (b : Byte) (l : Level) :
    (framePoll p b).foldl nselAfter l = .high := by simp [framePoll, nselAfter]

@[simp] theorem foldl_sdnAfter_frameW (bs : List Byte) (l : Level) :
    (frameW bs).foldl sdnAfter l = l := by simp [frameW, sdnAfter]

@[simp] theorem foldl_sdnAfter_frameR (bs : List Byte) (l : Level) :
    (frameR bs).foldl sdnAfter l = l := by simp [frameR, sdnAfter]

@[simp] theorem foldl_sdnAfter_framePoll (p : Params) (b : Byte) (l : Level) :
    (framePoll p b).foldl sdnAfter l = l := by simp [framePoll, sdnAfter]

@[simp] theorem polls_nil (p : Params) : polls p [] = [] := rfl

@[simp] theorem polls_cons (p : Params) (b : Byte) (w : List Byte) :
    polls p (b :: w) = framePoll p b ++ polls p w := by simp [polls]

theorem polls_append (p : Params) (w w' : List Byte) : polls p (w ++ w') = polls p w ++ polls p w' := by
  simp [polls]

theorem foldl_nselAfter_polls (p : Params) (w : List Byte) (l : Level) :
    (polls p w).foldl nselAfter l = if w = [] then l else .high := by
  induction w generalizing l with
  | nil => rfl
  | cons b w ih => simp [List.foldl_append, ih]

@[simp] theorem foldl_sdnAfter_polls (p : Params) (w : List Byte) (l : Level) :
    (polls p w).foldl sdnAfter l = l := by
  induction w generalizing l with
  | nil => rfl
  | cons b w ih => simp [List.foldl_append, ih]

theorem polls_eq_nil {p : Params} {w : List Byte} : polls p w = [] ↔ w = [] := by
  cases w with
  | nil => simp
  | cons b w => simp [framePoll]

@[simp] theorem foldl_nselAfter_answered (p : Params) (w : List Byte) (l : Level) :
    (answered p w).foldl nselAfter l = .high := by simp [answered, foldl_nselAfter_polls]

@[simp] theorem foldl_sdnAfter_answered (p : Params) (w : List Byte) (l : Level) :
    (answered p w).foldl sdnAfter l = l := by simp [answered]

@[simp] theorem foldl_nselAfter_guardedFrame (p : Params) (w bs : List Byte) (l : Level) :
    (guardedFrame p w bs).foldl nselAfter l = .high := by simp [guardedFrame]

@[simp] theorem foldl_sdnAfter_guardedFrame (p : Params) (w bs : List Byte) (l : Level) :
    (guardedFrame p w bs).foldl sdnAfter l = l := by simp [guardedFrame]

@[simp] theorem answered_ne_nil (p : Params) (w : List Byte) : answered p w ≠ [] := by
  simp [answered, polls_eq_nil]

@[simp] theorem guardedFrame_ne_nil (p : Params) (w bs : List Byte) : guardedFrame p w bs ≠ [] := by
  simp [guardedFrame]

theorem frameW_ne_nil (bs : List Byte) : frameW bs ≠ [] := by simp [frameW]

theorem frameR_ne_nil (bs : List Byte) : frameR bs ≠ [] := by simp [frameR]

/-- A command frame changes the trace and the select pin, and nothing else. -/
theorem sendFrame_eq (bs : List Byte) (s : State) :
    sendFrame bs s = { s with trace := s.trace ++ frameW bs, nsel := .high } := by
  simp [sendFrame, State.emits_eq]

@[simp] theorem sendFrame_cfg (bs : List Byte) (s : State) : (sendFrame bs s).cfg = s.cfg := by
  simp [sendFrame]

/-! ## Bus events with known answers -/

@[simp] theorem State.ran_cfg (es : List Event) (rest : List Byte) (s : State) :
    (s.ran es rest).cfg = s.cfg := rfl

@[simp] theorem State.ran_rx (es : List Event) (rest : List Byte) (s : State) :
    (s.ran es rest).rx = rest := rfl

@[simp] theorem State.ran_lc (es : List Event) (rest : List Byte) (s : State) :
    (s.ran es rest).lc = s.lc := rfl

@[simp] theorem State.ran_deviation (es : List Event) (rest : List Byte) (s : State) :
    (s.ran es rest).deviation = s.deviation := rfl

@[simp] theorem State.ran_carrier (es : List Event) (rest : List Byte) (s : State) :
    (s.ran es rest).carrier = s.carrier := rfl

@[simp] theorem State.ran_refclk (es : List Event) (rest : List Byte) (s : State) :
    (s.ran es rest).refclk = s.refclk := rfl

@[simp] theorem State.ran_cp (es : List Event) (rest : List Byte) (s : State) :
    (s.ran es rest).cp = s.cp := rfl

@[simp] theorem State.ran_rp (es : List Event) (rest : List Byte) (s : State) :
    (s.ran es rest).rp = s.rp := rfl

@[simp] theorem State.ran_err (es : List Event) (rest : List Byte) (s : State) :
    (s.ran es rest).err = s.err := rfl

@[simp] theorem State.ran_uf (es : List Event) (rest : List Byte) (s : State) :
    (s.ran es rest).uf = s.uf := rfl

@[simp] theorem State.ran_sdn (es : List Event) (rest : List Byte) (s : State) :
    (s.ran es rest).sdn = s.sdn := rfl

@[simp] theorem State.ran_ret (es : List Event) (rest : List Byte) (s : State) :
    (s.ran es rest).ret = s.ret := rfl

@[simp] theorem State.ran_resp (es : List Event) (rest : List Byte) (s : State) :
    (s.ran es rest).resp = s.resp := rfl

@[simp] theorem State.ran_pending (es : List Event) (rest : List Byte) (s : State) :
    (s.ran es rest).pending = s.pending := rfl

@[simp] theorem State.ran_reads (es : List Event) (rest : List Byte) (s : State) :
    (s.ran es rest).reads = s.reads := rfl

@[simp] theorem State.ran_ended (es : List Event) (rest : List Byte) (s : State) :
    (s.ran es rest).ended = s.ended := rfl

@[simp] theorem State.ran_trace (es : List Event) (rest : List Byte) (s : State) :
    (s.ran es rest).trace = s.trace ++ es := rfl

/-- Two runs in a row are one. -/
theorem State.ran_ran (es es' : List Event) (rest rest' : List Byte) (s : State) :
    (s.ran es rest).ran es' rest' = s.ran (es ++ es') rest' := by
  by_cases h : es = [] <;> by_cases h' : es' = [] <;> simp [State.ran, h, h']

@[simp] theorem framePoll_ne_nil (p : Params) (b : Byte) : framePoll p b ≠ [] := by simp [framePoll]

/-! ## Reads -/

/-- A read of a byte the chip is known to answer. -/
theorem drawByte_cons {s : State} {b : Byte} {rest : List Byte} (h : s.rx = b :: rest) :
    drawByte s = (b, { s with rx := rest }) := by
  simp [drawByte, h]

/-- Reads of bytes the chip is known to answer. -/
theorem drawBytes_append {s : State} {bs rest : List Byte} (h : s.rx = bs ++ rest) :
    drawBytes bs.length s = (bs, { s with rx := rest }) := by
  induction bs generalizing s with
  | nil =>
    have hr : s.rx = rest := by simpa using h
    subst hr
    rfl
  | cons b bs ih =>
    have hd := drawByte_cons (s := s) (b := b) (rest := bs ++ rest) (by simpa using h)
    have hi := ih (s := { s with rx := bs ++ rest }) rfl
    simp [drawBytes, hd, hi]

/-- Whatever it reads, a read changes only what the chip answers next. -/
theorem drawByte_frame (s : State) :
    (drawByte s).2 = { s with rx := (drawByte s).2.rx, reads := (drawByte s).2.reads } := by
  unfold drawByte
  split <;> rfl

theorem drawBytes_frame (n : Nat) (s : State) :
    (drawBytes n s).2 = { s with rx := (drawBytes n s).2.rx, reads := (drawBytes n s).2.reads } := by
  induction n generalizing s with
  | zero => rfl
  | succ n ih =>
    simp only [drawBytes]
    rw [ih (drawByte s).2, drawByte_frame s]

/-- As many bytes are read as were asked for. -/
@[simp] theorem drawBytes_length (n : Nat) (s : State) : (drawBytes n s).1.length = n := by
  induction n generalizing s with
  | zero => rfl
  | succ n ih => simp [drawBytes, ih]

/-- A poll of a byte the chip is known to answer. -/
theorem pollFrame_cons {s : State} {b : Byte} {rest : List Byte} (h : s.rx = b :: rest) :
    pollFrame s = (b, s.ran (framePoll s.cfg b) rest) := by
  simp [pollFrame, drawByte_cons h, State.emits_eq, State.ran]

/-- A response frame of bytes the chip is known to answer. -/
theorem respFrame_append {s : State} {bs rest : List Byte} (h : s.rx = bs ++ rest) :
    respFrame bs.length s = (bs, s.ran (frameR bs) rest) := by
  simp [respFrame, drawBytes_append h, State.emits_eq, State.ran, frameR_ne_nil]

/-! ## The wait -/

/-- A wait whose ready byte comes within the budget (40_bus_transport.md R101). -/
theorem waitLoop_answered {n : Nat} {s : State} {w rest : List Byte} (hw : AnsweredWithin n w)
    (h : s.rx = w ++ 0xFF#8 :: rest) :
    waitLoop n s = .done () (s.ran (answered s.cfg w) rest) := by
  induction w generalizing n s with
  | nil =>
    obtain ⟨n, rfl⟩ : ∃ m, n = m + 1 := ⟨n - 1, by have := hw.1; simp at this; omega⟩
    simp [waitLoop, pollFrame_cons (by simpa using h), answered]
  | cons b w ih =>
    obtain ⟨n, rfl⟩ : ∃ m, n = m + 1 := ⟨n - 1, by have := hw.1; simp at this; omega⟩
    have hb : b ≠ 0xFF#8 := hw.2 b (by simp)
    have hp := pollFrame_cons (s := s) (b := b) (rest := w ++ 0xFF#8 :: rest) (by simpa using h)
    have hi := ih (n := n) (s := s.ran (framePoll s.cfg b) (w ++ 0xFF#8 :: rest))
      ⟨by have := hw.1; simp at this; omega, fun c hc => hw.2 c (by simp [hc])⟩ rfl
    simp only [waitLoop, hp, hb, if_false, hi]
    simp [State.ran_ran, answered]

/-- A wait whose budget runs out (40_bus_transport.md R101). -/
theorem waitLoop_never {n : Nat} {s : State} {w rest : List Byte} (hw : NeverAnswered n w)
    (h : s.rx = w ++ rest) :
    waitLoop n s = .raised .busTimeout (s.ran (polls s.cfg w) rest) := by
  obtain ⟨hl, hb⟩ := hw
  subst hl
  induction w generalizing s with
  | nil =>
    have hr : s.rx = rest := by simpa using h
    subst hr
    simp [waitLoop, State.ran]
  | cons b w ih =>
    have hb' : b ≠ 0xFF#8 := hb b (by simp)
    have hp := pollFrame_cons (s := s) (b := b) (rest := w ++ rest) (by simpa using h)
    have hi := ih (s := s.ran (framePoll s.cfg b) (w ++ rest)) rfl (fun c hc => hb c (by simp [hc]))
    simp only [List.length_cons, waitLoop, hp, hb', if_false, hi]
    simp [State.ran_ran]

theorem sendFrame_ran (bs : List Byte) (es : List Event) (rest : List Byte) (s : State) :
    sendFrame bs (s.ran es rest) = s.ran (es ++ frameW bs) rest := by
  simp [sendFrame_eq, State.ran, frameW]

theorem respFrame_ran {es : List Event} {s : State} {bs rest : List Byte} {n : Nat} (hn : bs.length = n) :
    respFrame n (s.ran es (bs ++ rest)) = (bs, s.ran (es ++ frameR bs) rest) := by
  subst hn
  rw [respFrame_append (rest := rest) rfl]
  simp [State.ran, frameR]

/-- ISSUE whose wait is answered (40_bus_transport.md R103). -/
theorem issue_answered {s : State} {w rest : List Byte} (opcode : Byte) (payload : List Byte)
    (hw : AnsweredWithin s.cfg.ctsLimit w) (h : s.rx = w ++ 0xFF#8 :: rest) :
    issue opcode payload s = .done () (s.ran (guardedFrame s.cfg w (opcode :: payload)) rest) := by
  simp [issue, waitLoop_answered hw h, sendFrame_ran, guardedFrame]

/-- ISSUE whose wait times out (40_bus_transport.md R103). -/
theorem issue_never {s : State} {w rest : List Byte} (opcode : Byte) (payload : List Byte)
    (hw : NeverAnswered s.cfg.ctsLimit w) (h : s.rx = w ++ rest) :
    issue opcode payload s = .raised .busTimeout (s.ran (polls s.cfg w) rest) := by
  simp [issue, waitLoop_never hw h]

/-- READ_RESPONSE whose wait is answered (40_bus_transport.md R102). -/
theorem readResponse_answered {s : State} {w bs rest : List Byte} {n limit : Nat}
    (hw : AnsweredWithin limit w) (hn : bs.length = n) (h : s.rx = w ++ 0xFF#8 :: (bs ++ rest)) :
    readResponse n limit s = .done bs (s.ran (answered s.cfg w ++ frameR bs) rest) := by
  simp [readResponse, waitLoop_answered hw h, respFrame_ran hn]

/-- READ_RESPONSE whose wait times out (40_bus_transport.md R102). -/
theorem readResponse_never {s : State} {w rest : List Byte} {n limit : Nat}
    (hw : NeverAnswered limit w) (h : s.rx = w ++ rest) :
    readResponse n limit s = .raised .busTimeout (s.ran (polls s.cfg w) rest) := by
  simp [readResponse, waitLoop_never hw h]

/-- ISSUE_R whose waits are answered (40_bus_transport.md R103). -/
theorem issueR_answered {s : State} {w1 w2 bs rest : List Byte} {n : Nat} (opcode : Byte) (payload : List Byte)
    (h1 : AnsweredWithin s.cfg.ctsLimit w1) (h2 : AnsweredWithin s.cfg.ctsLimit w2) (hn : bs.length = n)
    (h : s.rx = w1 ++ 0xFF#8 :: (w2 ++ 0xFF#8 :: (bs ++ rest))) :
    issueR opcode payload n s =
      .done bs (s.ran (guardedFrame s.cfg w1 (opcode :: payload) ++ answered s.cfg w2 ++ frameR bs) rest) := by
  rw [issueR, issue_answered opcode payload h1 h]
  simp only [Ran.bind_done, State.ran_cfg]
  rw [readResponse_answered (s := s.ran _ _) h2 hn rfl]
  simp [State.ran_ran]

/-- ISSUE_R whose first wait times out (40_bus_transport.md R103). -/
theorem issueR_never {s : State} {w rest : List Byte} (opcode : Byte) (payload : List Byte) (n : Nat)
    (hw : NeverAnswered s.cfg.ctsLimit w) (h : s.rx = w ++ rest) :
    issueR opcode payload n s = .raised .busTimeout (s.ran (polls s.cfg w) rest) := by
  simp [issueR, issue_never _ _ hw h]

/-- ISSUE_R whose second wait times out (40_bus_transport.md R103). -/
theorem issueR_half {s : State} {w1 w rest : List Byte} (opcode : Byte) (payload : List Byte) (n : Nat)
    (h1 : AnsweredWithin s.cfg.ctsLimit w1) (hw : NeverAnswered s.cfg.ctsLimit w)
    (h : s.rx = w1 ++ 0xFF#8 :: (w ++ rest)) :
    issueR opcode payload n s =
      .raised .busTimeout (s.ran (guardedFrame s.cfg w1 (opcode :: payload) ++ polls s.cfg w) rest) := by
  simp only [issueR, issue_answered opcode payload h1 h, Ran.bind_done, State.ran_cfg]
  rw [readResponse_never (s := s.ran _ _) (rest := rest) hw rfl]
  simp [State.ran_ran]

/-! ## Whatever the chip answers -/

/-- `t` is `s` after bus events: the trace grew by `es`, the pins followed, bytes were read; every other field is
as it was. -/
def BusOnly (s : State) (es : List Event) (t : State) : Prop :=
  t = { s with
    trace := s.trace ++ es
    nsel := es.foldl nselAfter s.nsel
    sdn := es.foldl sdnAfter s.sdn
    rx := t.rx
    reads := t.reads }

theorem BusOnly.refl (s : State) : BusOnly s [] s := by
  cases s
  simp [BusOnly]

theorem BusOnly.trans {s t u : State} {es es' : List Event} (h : BusOnly s es t) (h' : BusOnly t es' u) :
    BusOnly s (es ++ es') u := by
  unfold BusOnly at *
  rw [h'] ; rw [h]
  simp [List.foldl_append]

theorem BusOnly.emits (es : List Event) (s : State) : BusOnly s es (s.emits es) := by
  unfold BusOnly
  rw [State.emits_eq]

theorem BusOnly.cfg {s t : State} {es : List Event} (h : BusOnly s es t) : t.cfg = s.cfg := by
  rw [h]

theorem BusOnly.lc {s t : State} {es : List Event} (h : BusOnly s es t) : t.lc = s.lc := by
  rw [h]

theorem BusOnly.trace {s t : State} {es : List Event} (h : BusOnly s es t) : t.trace = s.trace ++ es := by
  rw [h]

theorem BusOnly.nsel {s t : State} {es : List Event} (h : BusOnly s es t) : t.nsel = es.foldl nselAfter s.nsel := by
  rw [h]

theorem BusOnly.sdn {s t : State} {es : List Event} (h : BusOnly s es t) : t.sdn = es.foldl sdnAfter s.sdn := by
  rw [h]

theorem BusOnly.context {s t : State} {es : List Event} (h : BusOnly s es t) :
    t.refclk = s.refclk ∧ t.carrier = s.carrier ∧ t.deviation = s.deviation ∧ t.cp = s.cp ∧ t.rp = s.rp ∧
      t.err = s.err ∧ t.uf = s.uf ∧ t.pending = s.pending ∧ t.ret = s.ret ∧ t.resp = s.resp ∧ t.ended = s.ended := by
  rw [h]
  simp

theorem pollFrame_busOnly (s : State) : BusOnly s (framePoll s.cfg (pollFrame s).1) (pollFrame s).2 := by
  unfold BusOnly pollFrame
  simp only [State.emits_eq]
  rw [drawByte_frame s]

theorem respFrame_busOnly (n : Nat) (s : State) : BusOnly s (frameR (respFrame n s).1) (respFrame n s).2 := by
  unfold BusOnly respFrame
  simp only [State.emits_eq]
  rw [drawBytes_frame n s]

theorem sendFrame_busOnly (bs : List Byte) (s : State) : BusOnly s (frameW bs) (sendFrame bs s) :=
  BusOnly.emits _ _

/-- All a wait can do: it reads some bytes that are not ready and then a ready one within the budget, or the whole
budget of bytes that are not ready (40_bus_transport.md R101). -/
theorem waitLoop_cases (n : Nat) (s : State) :
    (∃ w t, AnsweredWithin n w ∧ BusOnly s (answered s.cfg w) t ∧ waitLoop n s = .done () t) ∨
    (∃ w t, NeverAnswered n w ∧ BusOnly s (polls s.cfg w) t ∧ waitLoop n s = .raised .busTimeout t) := by
  induction n generalizing s with
  | zero => exact .inr ⟨[], s, ⟨rfl, by simp⟩, BusOnly.refl s, rfl⟩
  | succ n ih =>
    have hp := pollFrame_busOnly s
    by_cases hb : (pollFrame s).1 = 0xFF#8
    · refine .inl ⟨[], (pollFrame s).2, ⟨by simp, by simp⟩, ?_, by simp [waitLoop, hb]⟩
      rw [hb] at hp
      simpa [answered] using hp
    · have he : waitLoop (n + 1) s = waitLoop n (pollFrame s).2 := by simp [waitLoop, hb]
      rcases ih (pollFrame s).2 with ⟨w, t, hw, ht, hr⟩ | ⟨w, t, hw, ht, hr⟩
      · refine .inl ⟨(pollFrame s).1 :: w, t, ⟨by simpa using hw.1, ?_⟩, ?_, he.trans hr⟩
        · intro b hm
          rcases List.mem_cons.1 hm with rfl | hm
          · exact hb
          · exact hw.2 b hm
        · rw [hp.cfg] at ht
          simpa [answered] using hp.trans ht
      · refine .inr ⟨(pollFrame s).1 :: w, t, ⟨by simpa using hw.1, ?_⟩, ?_, he.trans hr⟩
        · intro b hm
          rcases List.mem_cons.1 hm with rfl | hm
          · exact hb
          · exact hw.2 b hm
        · rw [hp.cfg] at ht
          simpa using hp.trans ht

/-- All ISSUE can do: an answered wait and the frame, or a wait that timed out and no frame
(40_bus_transport.md R103). -/
theorem issue_cases (opcode : Byte) (payload : List Byte) (s : State) :
    (∃ w t, AnsweredWithin s.cfg.ctsLimit w ∧ BusOnly s (guardedFrame s.cfg w (opcode :: payload)) t ∧
      issue opcode payload s = .done () t) ∨
    (∃ w t, NeverAnswered s.cfg.ctsLimit w ∧ BusOnly s (polls s.cfg w) t ∧
      issue opcode payload s = .raised .busTimeout t) := by
  rcases waitLoop_cases s.cfg.ctsLimit s with ⟨w, t, hw, ht, hr⟩ | ⟨w, t, hw, ht, hr⟩
  · exact .inl ⟨w, _, hw, ht.trans (sendFrame_busOnly _ t), by simp [issue, hr]⟩
  · exact .inr ⟨w, t, hw, ht, by simp [issue, hr]⟩

/-- All READ_RESPONSE can do (40_bus_transport.md R102). -/
theorem readResponse_cases (n limit : Nat) (s : State) :
    (∃ w bs t, AnsweredWithin limit w ∧ bs.length = n ∧ BusOnly s (answered s.cfg w ++ frameR bs) t ∧
      readResponse n limit s = .done bs t) ∨
    (∃ w t, NeverAnswered limit w ∧ BusOnly s (polls s.cfg w) t ∧
      readResponse n limit s = .raised .busTimeout t) := by
  rcases waitLoop_cases limit s with ⟨w, t, hw, ht, hr⟩ | ⟨w, t, hw, ht, hr⟩
  · exact .inl ⟨w, (respFrame n t).1, (respFrame n t).2, hw, by simp [respFrame], ht.trans (respFrame_busOnly n t),
      by simp [readResponse, hr]⟩
  · exact .inr ⟨w, t, hw, ht, by simp [readResponse, hr]⟩

/-- All ISSUE_R can do (40_bus_transport.md R103). -/
theorem issueR_cases (opcode : Byte) (payload : List Byte) (n : Nat) (s : State) :
    (∃ w1 w2 bs t, AnsweredWithin s.cfg.ctsLimit w1 ∧ AnsweredWithin s.cfg.ctsLimit w2 ∧ bs.length = n ∧
      BusOnly s (guardedFrame s.cfg w1 (opcode :: payload) ++ (answered s.cfg w2 ++ frameR bs)) t ∧
      issueR opcode payload n s = .done bs t) ∨
    (∃ es w t, (es = [] ∨ ∃ w1, AnsweredWithin s.cfg.ctsLimit w1 ∧ es = guardedFrame s.cfg w1 (opcode :: payload)) ∧
      NeverAnswered s.cfg.ctsLimit w ∧ BusOnly s (es ++ polls s.cfg w) t ∧
      issueR opcode payload n s = .raised .busTimeout t) := by
  rcases issue_cases opcode payload s with ⟨w1, t, hw1, ht, hr⟩ | ⟨w, t, hw, ht, hr⟩
  · have hc := ht.cfg
    rcases readResponse_cases n t.cfg.ctsLimit t with ⟨w2, bs, u, hw2, hl, hu, hr2⟩ | ⟨w, u, hw, hu, hr2⟩
    · rw [hc] at hw2 hu hr2
      exact .inl ⟨w1, w2, bs, u, hw1, hw2, hl, ht.trans hu, by simp [issueR, hr, hc, hr2]⟩
    · rw [hc] at hw hu hr2
      exact .inr ⟨_, w, u, .inr ⟨w1, hw1, rfl⟩, hw, ht.trans hu, by simp [issueR, hr, hc, hr2]⟩
  · exact .inr ⟨[], w, t, .inl rfl, hw, by simpa using ht, by simp [issueR, hr]⟩

/-! ## Reasoning over a whole operation -/

/-- Every end of a piece of an operation: `P` where it ran to its end, `Q` where it raised. -/
def Ran.All {α : Type} (P : α → State → Prop) (Q : Kind → State → Prop) (r : Ran α) : Prop :=
  match r with
  | .done a s => P a s
  | .raised k s => Q k s

@[simp] theorem Ran.all_done {α : Type} (P : α → State → Prop) (Q : Kind → State → Prop) (a : α) (s : State) :
    (Ran.done a s).All P Q ↔ P a s := Iff.rfl

@[simp] theorem Ran.all_raised {α : Type} (P : α → State → Prop) (Q : Kind → State → Prop) (k : Kind) (s : State) :
    (Ran.raised (α := α) k s).All P Q ↔ Q k s := Iff.rfl

/-- Pieces in a row. -/
theorem Ran.All.bind {α β : Type} {P : α → State → Prop} {P' : β → State → Prop} {Q : Kind → State → Prop}
    {r : Ran α} {f : α → State → Ran β} (h : r.All P Q) (hf : ∀ a s, P a s → (f a s).All P' Q) :
    (r.bind f).All P' Q := by
  cases r with
  | done a s => exact hf a s h
  | raised k s => exact h

theorem Ran.All.mono {α : Type} {P P' : α → State → Prop} {Q Q' : Kind → State → Prop} {r : Ran α}
    (h : r.All P Q) (hP : ∀ a s, P a s → P' a s) (hQ : ∀ k s, Q k s → Q' k s) : r.All P' Q' := by
  cases r with
  | done a s => exact hP a s h
  | raised k s => exact hQ k s h

theorem require_all {c : Bool} {k : Kind} {s : State} {P : Unit → State → Prop} {Q : Kind → State → Prop}
    (hP : c = true → P () s) (hQ : c = false → Q k s) : (require c k s).All P Q := by
  cases c with
  | true => exact hP rfl
  | false => exact hQ rfl

end Sys2Proof.Machine
end

