-- ==== Sys2Proof/Laws/Trace.lean ====
section
/-! SUPPORT. Whole frames: reading a trace made of pieces is reading each piece. -/

namespace Sys2Proof.Machine

/-! ## Framing -/

theorem framedFrom_append {es : List Event} {b : Bool} (h : framedFrom b es = true) (es' : List Event) :
    framedFrom b (es ++ es') = framedFrom false es' := by
  induction es generalizing b with
  | nil => cases b <;> simp_all [framedFrom]
  | cons e es ih =>
    cases b <;> cases e <;> simp only [List.cons_append, framedFrom, Bool.not_true, Bool.not_false, Bool.true_and,
      Bool.false_and, Bool.false_eq_true] at h ⊢ <;> exact ih h

/-- Framed pieces in a row are framed. -/
theorem framed_append {es es' : List Event} (h : framed es = true) (h' : framed es' = true) :
    framed (es ++ es') = true := by
  rw [framed, framedFrom_append h]
  exact h'

theorem framed_append_left {es es' : List Event} (h : framed es = true) :
    framed (es ++ es') = framed es' := framedFrom_append h es'

@[simp] theorem framed_nil : framed [] = true := rfl

theorem framed_flatten {ess : List (List Event)} (h : ∀ es ∈ ess, framed es = true) : framed ess.flatten = true := by
  induction ess with
  | nil => rfl
  | cons es ess ih =>
    rw [List.flatten_cons]
    exact framed_append (h es (by simp)) (ih fun e he => h e (by simp [he]))

theorem framedFrom_tx (bs : List Byte) (es : List Event) :
    framedFrom true (bs.map .tx ++ es) = framedFrom true es := by
  induction bs with
  | nil => rfl
  | cons b bs ih => simpa [framedFrom] using ih

theorem framedFrom_rx (bs : List Byte) (es : List Event) :
    framedFrom true (bs.map .rx ++ es) = framedFrom true es := by
  induction bs with
  | nil => rfl
  | cons b bs ih => simpa [framedFrom] using ih

@[simp] theorem framed_frameW (bs : List Byte) : framed (frameW bs) = true := by
  simp [framed, frameW, framedFrom, framedFrom_tx]

@[simp] theorem framed_frameR (bs : List Byte) : framed (frameR bs) = true := by
  simp [framed, frameR, framedFrom, framedFrom_rx]

@[simp] theorem framed_framePoll (p : Params) (b : Byte) : framed (framePoll p b) = true := by
  simp [framed, framePoll, framedFrom]

@[simp] theorem framed_dlyMs (t : Nat) : framed [.dlyMs t] = true := rfl

@[simp] theorem framed_polls (p : Params) (w : List Byte) : framed (polls p w) = true := by
  induction w with
  | nil => rfl
  | cons b w ih => exact framed_append (framed_framePoll p b) ih

@[simp] theorem framed_answered (p : Params) (w : List Byte) : framed (answered p w) = true := framed_polls p _

@[simp] theorem framed_guardedFrame (p : Params) (w bs : List Byte) : framed (guardedFrame p w bs) = true :=
  framed_append (framed_answered p w) (framed_frameW bs)

theorem framed_resetSeq (p : Params) : framed (resetSeq p) = true := by
  have h : ∀ es : List PinEvent, framed (es.map PinEvent.toEvent) = true := by
    intro es
    induction es with
    | nil => rfl
    | cons e es ih => cases e <;> simpa [framed, framedFrom, PinEvent.toEvent] using ih
  simpa [framed, resetSeq, framedFrom] using h p.resetTail

/-! ## The select pin -/

/-- Framed events leave a released chip-select released. -/
theorem nsel_of_framed {es : List Event} (h : framed es = true) : es.foldl nselAfter .high = .high := by
  have key : ∀ (es : List Event) (b : Bool), framedFrom b es = true →
      es.foldl nselAfter (if b then .low else .high) = .high := by
    intro es
    induction es with
    | nil => intro b hb; cases b <;> simp_all [framedFrom]
    | cons e es ih =>
      intro b hb
      cases b <;> cases e <;> simp only [framedFrom, Bool.not_true, Bool.not_false, Bool.true_and,
        Bool.false_and, Bool.false_eq_true] at hb <;> exact ih _ hb
  exact key es false h

/-! ## Frames of a trace -/

/-- Whole frames leave chip-select as it was, or released. -/
theorem nsel_framed {es : List Event} (h : framed es = true) (l : Level) :
    es.foldl nselAfter l = l ∨ es.foldl nselAfter l = .high := by
  have key : ∀ (es : List Event) (b : Bool) (l : Level), framedFrom b es = true →
      (b = false ∧ es.foldl nselAfter l = l) ∨ es.foldl nselAfter l = .high := by
    intro es
    induction es with
    | nil => intro b l h; exact .inl ⟨by simpa [framedFrom] using h, rfl⟩
    | cons e es ih =>
      intro b l h
      cases e <;> simp only [framedFrom, Bool.and_eq_true, Bool.not_eq_true'] at h <;>
        simp only [List.foldl_cons, nselAfter]
      case selL => exact .inr ((ih _ _ h.2).resolve_left (by simp))
      case selH => exact .inr ((ih _ .high h.2).elim (·.2) id)
      case tx => exact .inr ((ih _ _ h.2).resolve_left (by simp [h.1]))
      case rx => exact .inr ((ih _ _ h.2).resolve_left (by simp [h.1]))
      case dlyMs => exact ih _ _ h.2
      case sdn => exact ih _ _ h.2
  exact (key es false l h).imp (·.2) id

theorem cutFrames_append {es : List Event} {b : Bool} (h : framedFrom b es = true) (es' : List Event)
    (o : Option (List Event)) (ho : o.isSome = b) :
    cutFrames o (es ++ es') = cutFrames o es ++ cutFrames none es' := by
  induction es generalizing b o with
  | nil =>
    have hb : b = false := by simpa [framedFrom] using h
    subst hb
    have hn : o = none := by simpa using ho
    subst hn
    rfl
  | cons e es ih =>
    cases e with
    | selL =>
      simp only [framedFrom, Bool.and_eq_true] at h
      exact ih (b := true) h.2 (some []) rfl
    | selH =>
      simp only [framedFrom, Bool.and_eq_true] at h
      obtain ⟨hb, hr⟩ := h
      subst hb
      obtain ⟨f, rfl⟩ := Option.isSome_iff_exists.1 ho
      simpa [cutFrames] using ih (b := false) hr none rfl
    | tx a =>
      simp only [framedFrom, Bool.and_eq_true] at h
      exact ih (b := b) h.2 (o.map (· ++ [.tx a])) (by simpa using ho)
    | rx a =>
      simp only [framedFrom, Bool.and_eq_true] at h
      exact ih (b := b) h.2 (o.map (· ++ [.rx a])) (by simpa using ho)
    | dlyMs a =>
      simp only [framedFrom, Bool.and_eq_true] at h
      exact ih (b := b) h.2 (o.map (· ++ [.dlyMs a])) (by simpa using ho)
    | sdn a =>
      simp only [framedFrom, Bool.and_eq_true] at h
      exact ih (b := b) h.2 (o.map (· ++ [.sdn a])) (by simpa using ho)

/-- The frames of framed events followed by others. -/
theorem cutFrames_framed_append {es : List Event} (h : framed es = true) (es' : List Event) :
    cutFrames none (es ++ es') = cutFrames none es ++ cutFrames none es' :=
  cutFrames_append h es' none rfl

@[simp] theorem cutFrames_nil : cutFrames none [] = [] := rfl

theorem cutFrames_body (f bs : List Event) (h : ∀ e ∈ bs, isWrite e = true ∨ ∃ b, e = .rx b) (es : List Event) :
    cutFrames (some f) (bs ++ .selH :: es) = (f ++ bs) :: cutFrames none es := by
  induction bs generalizing f with
  | nil => simp [cutFrames]
  | cons e bs ih =>
    have hr := ih (f ++ [e]) fun x hx => h x (by simp [hx])
    rcases h e (by simp) with he | ⟨b, rfl⟩
    · cases e with
      | tx b => simpa [cutFrames] using hr
      | _ => simp [isWrite] at he
    · simpa [cutFrames] using hr

@[simp] theorem cutFrames_frameW (bs : List Byte) : cutFrames none (frameW bs) = [bs.map .tx] := by
  have h := cutFrames_body [] (bs.map .tx) (by simp [isWrite]) []
  simpa [frameW, cutFrames] using h

@[simp] theorem cutFrames_frameR (bs : List Byte) : cutFrames none (frameR bs) = [bs.map .rx] := by
  have h := cutFrames_body [] (bs.map .rx) (by simp) []
  simpa [frameR, cutFrames] using h

@[simp] theorem cutFrames_framePoll (p : Params) (b : Byte) :
    cutFrames none (framePoll p b) = [[.tx p.wReadCmdBuff, .rx b]] := rfl

@[simp] theorem cutFrames_dlyMs (t : Nat) : cutFrames none [.dlyMs t] = [] := rfl

@[simp] theorem cutFrames_polls (p : Params) (w : List Byte) :
    cutFrames none (polls p w) = w.map fun b => [.tx p.wReadCmdBuff, .rx b] := by
  induction w with
  | nil => rfl
  | cons b w ih => rw [polls_cons, cutFrames_framed_append (framed_framePoll p b), ih]; simp

/-! ## Guarding -/

theorem guardedAfter_append (p : Params) (prev : List Event) (fs fs' : List (List Event)) :
    guardedAfter p prev (fs ++ fs') =
      (guardedAfter p prev fs && guardedAfter p ((prev :: fs).getLast (by simp)) fs') := by
  induction fs generalizing prev with
  | nil => simp [guardedAfter]
  | cons f fs ih =>
    simp only [List.cons_append, guardedAfter, ih f, Bool.and_assoc]
    congr 3

/-- Guarding does not depend on what came before, if it holds with nothing before. -/
theorem guardedAfter_of_nil {p : Params} {fs : List (List Event)} (h : guardedAfter p [] fs = true)
    (prev : List Event) : guardedAfter p prev fs = true := by
  cases fs with
  | nil => rfl
  | cons f fs =>
    simp only [guardedAfter, Bool.and_eq_true, Bool.or_eq_true] at h ⊢
    exact ⟨.inl (by simpa using h.1), h.2⟩

/-- Guarded events in a row are guarded. -/
theorem ctsGuarded_append {p : Params} {es es' : List Event} (hf : framed es = true)
    (h : ctsGuarded p es = true) (h' : ctsGuarded p es' = true) : ctsGuarded p (es ++ es') = true := by
  rw [ctsGuarded, cutFrames_framed_append hf, guardedAfter_append, Bool.and_eq_true]
  exact ⟨h, guardedAfter_of_nil h' _⟩

@[simp] theorem ctsGuarded_nil (p : Params) : ctsGuarded p [] = true := rfl

@[simp] theorem ctsGuarded_dlyMs (p : Params) (t : Nat) : ctsGuarded p [.dlyMs t] = true := rfl

@[simp] theorem ctsGuarded_frameR (p : Params) (bs : List Byte) : ctsGuarded p (frameR bs) = true := by
  cases bs <;> simp [ctsGuarded, guardedAfter, isCommandFrame, isWrite]

@[simp] theorem ctsGuarded_polls (p : Params) (w : List Byte) : ctsGuarded p (polls p w) = true := by
  induction w with
  | nil => rfl
  | cons b w ih =>
    rw [polls_cons]
    exact ctsGuarded_append (framed_framePoll p b) (by simp [ctsGuarded, guardedAfter, isCommandFrame, isWrite]) ih

@[simp] theorem ctsGuarded_answered (p : Params) (w : List Byte) : ctsGuarded p (answered p w) = true :=
  ctsGuarded_polls p _

/-- A command frame right after an answered wait is guarded. -/
@[simp] theorem ctsGuarded_guardedFrame (p : Params) (w bs : List Byte) :
    ctsGuarded p (guardedFrame p w bs) = true := by
  have hw := ctsGuarded_polls p w
  rw [guardedFrame, answered, polls_append, List.append_assoc]
  refine ctsGuarded_append (framed_polls p w) hw ?_
  rw [polls_cons, polls_nil, List.append_nil, ctsGuarded, cutFrames_framed_append (framed_framePoll p _)]
  simp [guardedAfter, isCommandFrame, isWrite]

/-! ## Where a wait begins -/

@[simp] theorem noFailedPollLast_nil (p : Params) : NoFailedPollLast p [] := by simp [NoFailedPollLast]

@[simp] theorem noFailedPollLast_dlyMs (p : Params) (t : Nat) : NoFailedPollLast p [.dlyMs t] := by
  simp [NoFailedPollLast]

@[simp] theorem noFailedPollLast_frameW (p : Params) (bs : List Byte) : NoFailedPollLast p (frameW bs) := by
  intro b h
  have hm : Event.rx b ∈ bs.map Event.tx := by
    rw [cutFrames_frameW, List.getLast?_singleton, Option.some.injEq] at h
    simp [h]
  simp at hm

@[simp] theorem noFailedPollLast_frameR (p : Params) (bs : List Byte) : NoFailedPollLast p (frameR bs) := by
  intro b h
  have hm : Event.tx p.wReadCmdBuff ∈ bs.map Event.rx := by
    rw [cutFrames_frameR, List.getLast?_singleton, Option.some.injEq] at h
    simp [h]
  simp at hm

@[simp] theorem noFailedPollLast_answered (p : Params) (w : List Byte) : NoFailedPollLast p (answered p w) := by
  intro b h
  simpa [answered, eq_comm] using h

theorem noFailedPollLast_append {p : Params} {es es' : List Event} (hf : framed es = true)
    (h : NoFailedPollLast p es) (h' : NoFailedPollLast p es') : NoFailedPollLast p (es ++ es') := by
  intro b hb
  rw [cutFrames_framed_append hf, List.getLast?_append, Option.or_eq_some_iff] at hb
  exact hb.elim (h' b) fun hb => h b hb.2

@[simp] theorem noFailedPollLast_guardedFrame (p : Params) (w bs : List Byte) :
    NoFailedPollLast p (guardedFrame p w bs) :=
  noFailedPollLast_append (framed_answered p w) (noFailedPollLast_answered p w) (noFailedPollLast_frameW p bs)

/-- What CONFIGURE does before its handshake holds no poll. -/
theorem noFailedPollLast_powerUpEvents (p : Params) (cp : ChipParameters) : NoFailedPollLast p (powerUpEvents p cp) := by
  have h : ∀ fs : List CommandFrame, NoFailedPollLast p (fs.flatMap fun f => frameW (frameBytes f)) := by
    intro fs
    induction fs with
    | nil => simp
    | cons f fs ih =>
      rw [List.flatMap_cons]
      exact noFailedPollLast_append (framed_frameW _) (noFailedPollLast_frameW p _) ih
  have hp : ∀ es : List PinEvent, cutFrames none (es.map PinEvent.toEvent) = [] := by
    intro es
    induction es with
    | nil => rfl
    | cons e es ih => cases e <;> simpa [PinEvent.toEvent, cutFrames] using ih
  have hr : NoFailedPollLast p (resetSeq p) := by
    simp [NoFailedPollLast, resetSeq, cutFrames, hp]
  exact noFailedPollLast_append (framed_resetSeq p) hr (h _)

/-- What CONFIGURE does before its handshake is whole frames and pin events. -/
theorem framed_powerUpEvents (p : Params) (cp : ChipParameters) : framed (powerUpEvents p cp) = true :=
  framed_append (framed_resetSeq p) (by rw [List.flatMap_def]; exact framed_flatten (by simp))

end Sys2Proof.Machine
end

