-- ==== Sys2Proof/Laws/Endings.lean ====
section
/-! SUPPORT. From how the body of an operation ran to how the operation ends; and what the bodies that operations share
do when the chip's answers are known. -/

namespace Sys2Proof.Machine

/-! ## Ends -/

theorem Ends.of_done {i : Instr} {s t : State} {r : Ran Result} (h : exec i s = finish r)
    (hr : r = .done {} t) : Ends i s .ok t :=
  ⟨_, _, by rw [h, hr]; rfl⟩

theorem Returns.of_done {i : Instr} {s t : State} {v : Word} {r : Ran Result} (h : exec i s = finish r)
    (hr : r = .done { ret := some v } t) : Returns i s v t :=
  ⟨_, by rw [h, hr]; rfl⟩

theorem Ends.of_raised {i : Instr} {s t : State} {k : Kind} {r : Ran Result} (h : exec i s = finish r)
    (hk : losesConfiguration k = false) (hr : r = .raised k t) : Ends i s k t :=
  ⟨_, _, by rw [h, hr, finish, Ran.settle_raised, State.raise, hk]; rfl⟩

theorem Ends.of_lost {i : Instr} {s t : State} {k : Kind} {r : Ran Result} (h : exec i s = finish r)
    (hk : losesConfiguration k = true) (hr : r = .raised k t) :
    Ends i s k { t with lc := .uninitialized } :=
  ⟨_, _, by rw [h, hr, finish, Ran.settle_raised, State.raise, hk]; rfl⟩

/-- An operation whose body begins with the lifecycle check is refused while LC is Uninitialized. -/
theorem RefusedWhenDown.of_gate {i : Instr} {f : Unit → State → Ran Result}
    (h : ∀ s, exec i s = finish ((requireUp s).bind f)) : RefusedWhenDown i := by
  intro s hs
  exact Ends.of_raised (h s) rfl (by rw [requireUp_down hs]; rfl)

/-- A body that is one guarded frame. -/
theorem SendsOneFrame.of_issue {i : Instr} {s : State} {opcode : Byte} {payload : List Byte}
    {before after : State → State} {r : Ran Result}
    (h : exec i s = finish r)
    (hr : r = (issue opcode payload (before s)).bind fun _ t => .done {} (after t))
    (hcfg : (before s).cfg = s.cfg) (hrx : (before s).rx = s.rx) :
    SendsOneFrame i s (opcode :: payload) before after := by
  constructor
  · intro w rest hw hx
    refine Ends.of_done h ?_
    rw [hr, issue_answered opcode payload (hcfg ▸ hw) (hrx ▸ hx), hcfg]
    rfl
  · intro w rest hw hx
    refine Ends.of_lost h rfl ?_
    rw [hr, issue_never opcode payload (hcfg ▸ hw) (hrx ▸ hx), hcfg]
    rfl

/-! ## Answers of several waits -/

@[simp] theorem answers_nil : answers [] = [] := rfl

@[simp] theorem answers_cons (w : List Byte) (ws : List (List Byte)) :
    answers (w :: ws) = w ++ 0xFF#8 :: answers ws := by simp [answers]

@[simp] theorem answers_append (ws ws' : List (List Byte)) : answers (ws ++ ws') = answers ws ++ answers ws' := by
  simp [answers]

@[simp] theorem guardedFrames_nil (p : Params) (frames : List (List Byte)) : guardedFrames p [] frames = [] := rfl

@[simp] theorem guardedFrames_cons (p : Params) (w : List Byte) (ws : List (List Byte)) (f : List Byte)
    (frames : List (List Byte)) :
    guardedFrames p (w :: ws) (f :: frames) = guardedFrame p w f ++ guardedFrames p ws frames := rfl

@[simp] theorem symbolsEvents_nil (p : Params) (ys : List (BitVec 2)) : symbolsEvents p [] ys = [] := rfl

@[simp] theorem symbolsEvents_cons (p : Params) (w : List Byte) (ws : List (List Byte)) (y : BitVec 2)
    (ys : List (BitVec 2)) :
    symbolsEvents p (w :: ws) (y :: ys) = symbolEvents p w y ++ symbolsEvents p ws ys := rfl

/-! ## Shared bodies, answered -/

/-- A state command whose wait is answered (41_state_controller.md R110). -/
theorem commandState_answered {s : State} {w rest : List Byte} (target : OpState)
    (hw : AnsweredWithin s.cfg.ctsLimit w) (h : s.rx = w ++ 0xFF#8 :: rest) :
    commandState target s =
      .done () { s.ran (guardedFrame s.cfg w [s.cfg.wChangeState, s.cfg.stateCode target]) rest with
        lc := lifecycleOf target } := by
  simp [commandState, issue_answered _ _ hw h, State.setLc]

/-- A state command whose wait times out (41_state_controller.md R110). -/
theorem commandState_never {s : State} {w rest : List Byte} (target : OpState)
    (hw : NeverAnswered s.cfg.ctsLimit w) (h : s.rx = w ++ rest) :
    commandState target s = .raised .busTimeout (s.ran (polls s.cfg w) rest) := by
  simp [commandState, issue_never _ _ hw h]

/-- An underflow check whose waits are answered (43_fifo_tx_engine.md R140). -/
theorem checkUnderflow_answered {s : State} {w1 w2 status rest : List Byte}
    (h1 : AnsweredWithin s.cfg.ctsLimit w1) (h2 : AnsweredWithin s.cfg.ctsLimit w2) (hl : status.length = 7)
    (h : s.rx = answers [w1, w2] ++ (status ++ rest)) :
    checkUnderflow s =
      .done (underflowBit s.cfg status)
        { s.ran (underflowEvents s.cfg w1 w2 status) rest with uf := underflowBit s.cfg status } := by
  have hx : s.rx = w1 ++ 0xFF#8 :: (w2 ++ 0xFF#8 :: (status ++ rest)) := by simpa using h
  simp [checkUnderflow, issueR_answered _ _ h1 h2 hl hx, State.setUf, underflowEvents]

/-- The tested bit, as the statements say it. -/
theorem underflowBit_eq_iff {p : Params} {status : List Byte} {b : Bool}
    (h : b = true ↔ UnderflowReported p status) : underflowBit p status = b := by
  unfold underflowBit UnderflowReported at *
  cases b <;> simp_all

/-- A device-state query whose waits are answered (43_fifo_tx_engine.md R143). -/
theorem queryState_answered {s : State} {q : Query} {rest : List Byte} (hq : q.Complete s.cfg)
    (h : s.rx = q.bytes ++ rest) :
    queryState s = .done (maskedState s.cfg q.d) (s.ran (q.events s.cfg) rest) := by
  have hx : s.rx = q.w1 ++ 0xFF#8 :: (q.w2 ++ 0xFF#8 :: (q.d ++ rest)) := by
    simpa [Query.bytes] using h
  simp [queryState, issueR_answered _ _ hq.1 hq.2.1 hq.2.2 hx, Query.events]

/-- The done test, as the statements say it. -/
theorem doneCode_iff (p : Params) (q : Query) : doneCode p (maskedState p q.d) = true ↔ q.ReportsDone p := by
  unfold doneCode maskedState Query.ReportsDone
  simp [Params.stateCode, or_assoc]

/-- The loop of WAIT_TX_COMPLETE passes over queries that saw no done state, each followed by its delay. -/
theorem doneLoop_notDone {qs : List Query} {n : Nat} {s : State} {rest : List Byte}
    (hq : ∀ q ∈ qs, q.Complete s.cfg ∧ ¬ q.ReportsDone s.cfg) (hn : qs.length ≤ n)
    (hx : s.rx = qs.flatMap Query.bytes ++ rest) :
    doneLoop n s = doneLoop (n - qs.length) (s.ran (delayedQueries s.cfg qs) rest) := by
  induction qs generalizing n s with
  | nil =>
    simp only [List.flatMap_nil, List.nil_append] at hx
    subst hx
    simp [State.ran, delayedQueries]
  | cons q qs ih =>
    obtain ⟨n, rfl⟩ : ∃ m, n = m + 1 := ⟨n - 1, by simp at hn; omega⟩
    have h1 := hq q (by simp)
    have hx' : s.rx = q.bytes ++ (qs.flatMap Query.bytes ++ rest) := by simpa using hx
    have hd : doneCode s.cfg (maskedState s.cfg q.d) = false := by
      simpa using (doneCode_iff s.cfg q).not.2 h1.2
    have h2 := ih (n := n) (s := (s.ran (q.events s.cfg) (qs.flatMap Query.bytes ++ rest)).emit (.dlyMs 1))
      (fun q hm => hq q (by simp [hm])) (by simpa using hn) rfl
    simp only [doneLoop, queryState_answered h1.1 hx', Ran.bind_done, State.ran_cfg, hd, Bool.false_eq_true, if_false,
      h2]
    simp [State.ran, State.emit, nselAfter, sdnAfter, Query.events, frameR, delayedQueries]

/-- An offset write whose wait is answered (42_frequency_synthesizer.md R130). -/
theorem writeOffset_answered {s : State} {w rest : List Byte} {offset : Nat} (ho : offset < 2 ^ 16)
    (hw : AnsweredWithin s.cfg.ctsLimit w) (h : s.rx = w ++ 0xFF#8 :: rest) :
    writeOffset offset s =
      .done () (s.ran (guardedFrame s.cfg w
        (propertyBytes s.cfg s.cfg.wGOffset 2#8 s.cfg.wIOffset (be2 offset))) rest) := by
  have hd : decide (offset < 2 ^ 16) = true := decide_eq_true ho
  simp only [writeOffset, hd, require_true, Ran.bind_done, propWrite, issue_answered _ _ hw h]
  rfl

/-- An offset write whose wait times out (42_frequency_synthesizer.md R130). -/
theorem writeOffset_never {s : State} {w rest : List Byte} {offset : Nat} (ho : offset < 2 ^ 16)
    (hw : NeverAnswered s.cfg.ctsLimit w) (h : s.rx = w ++ rest) :
    writeOffset offset s = .raised .busTimeout (s.ran (polls s.cfg w) rest) := by
  have hd : decide (offset < 2 ^ 16) = true := decide_eq_true ho
  simp only [writeOffset, hd, require_true, Ran.bind_done, propWrite, issue_never _ _ hw h]

theorem offsetLut_lt (y : BitVec 2) : offsetLut y < 2 ^ 16 := by
  have := y.isLt
  unfold offsetLut
  omega

/-- The two bytes of a symbol's offset. -/
theorem be2_offsetLut (y : BitVec 2) : be2 (offsetLut y) = [0x00#8, BitVec.ofNat 8 (22 * y.toNat)] := by
  have := y.isLt
  have hd : 22 * y.toNat / 256 = 0 := by omega
  simp [be2, byteAt, offsetLut, hd]

/-- Symbols whose waits are all answered (44_modulation_encoder.md R152). -/
theorem sendSymbols_answered {ys : List (BitVec 2)} {ws : List (List Byte)} {s : State} {rest : List Byte}
    (hl : ws.length = ys.length) (hw : ∀ w ∈ ws, AnsweredWithin s.cfg.ctsLimit w)
    (h : s.rx = answers ws ++ rest) :
    sendSymbols ys s = .done () (s.ran (symbolsEvents s.cfg ws ys) rest) := by
  induction ys generalizing ws s with
  | nil =>
    obtain rfl : ws = [] := List.length_eq_zero_iff.1 hl
    have hr : s.rx = rest := by simpa using h
    subst hr
    simp [sendSymbols, State.ran]
  | cons y ys ih =>
    obtain _ | ⟨w, ws⟩ := ws
    · simp at hl
    have hx : s.rx = w ++ 0xFF#8 :: (answers ws ++ rest) := by simpa using h
    have ho := writeOffset_answered (offsetLut_lt y) (hw w (by simp)) hx
    simp only [sendSymbols, ho, Ran.bind_done, State.ran_cfg]
    rw [be2_offsetLut]
    have hi := ih (ws := ws) (s := ((s.ran (guardedFrame s.cfg w (propertyBytes s.cfg s.cfg.wGOffset 2#8 s.cfg.wIOffset
      [0x00#8, BitVec.ofNat 8 (22 * y.toNat)])) (answers ws ++ rest)).emit (.dlyMs s.cfg.tSymMs)))
      (by simpa using hl) (by intro w' hm; exact hw w' (by simp [hm])) rfl
    rw [hi]
    simp [State.ran, State.emit, nselAfter, sdnAfter, symbolEvents, guardedFrame, frameW]

/-- Symbols some of whose waits are answered and the next times out (44_modulation_encoder.md R152). -/
theorem sendSymbols_never {ys : List (BitVec 2)} {ws : List (List Byte)} {s : State} {w rest : List Byte}
    (hl : ws.length < ys.length) (hw : ∀ w ∈ ws, AnsweredWithin s.cfg.ctsLimit w)
    (hn : NeverAnswered s.cfg.ctsLimit w) (h : s.rx = answers ws ++ (w ++ rest)) :
    sendSymbols ys s = .raised .busTimeout (s.ran (symbolsEvents s.cfg ws ys ++ polls s.cfg w) rest) := by
  induction ys generalizing ws s with
  | nil => simp at hl
  | cons y ys ih =>
    obtain _ | ⟨w', ws⟩ := ws
    · simp [sendSymbols, writeOffset_never (offsetLut_lt y) hn (by simpa using h)]
    have hx : s.rx = w' ++ 0xFF#8 :: (answers ws ++ (w ++ rest)) := by simpa using h
    have ho := writeOffset_answered (offsetLut_lt y) (hw w' (by simp)) hx
    simp only [sendSymbols, ho, Ran.bind_done, State.ran_cfg]
    rw [be2_offsetLut]
    have hi := ih (ws := ws) (s := ((s.ran (guardedFrame s.cfg w' (propertyBytes s.cfg s.cfg.wGOffset 2#8 s.cfg.wIOffset
      [0x00#8, BitVec.ofNat 8 (22 * y.toNat)])) (answers ws ++ (w ++ rest))).emit (.dlyMs s.cfg.tSymMs)))
      (by simpa using hl) (by intro w'' hm; exact hw w'' (by simp [hm])) hn rfl
    rw [hi]
    simp [State.ran, State.emit, nselAfter, sdnAfter, symbolEvents, guardedFrame, frameW]

/-- Symbols in two parts. -/
theorem sendSymbols_append (ys ys' : List (BitVec 2)) (s : State) :
    sendSymbols (ys ++ ys') s = (sendSymbols ys s).bind fun _ t => sendSymbols ys' t := by
  induction ys generalizing s with
  | nil => rfl
  | cons y ys ih => simp only [List.cons_append, sendSymbols, Ran.bind_assoc, ih]

/-- A buffer is the symbols of its bytes (44_modulation_encoder.md R153). -/
theorem writeBytes_eq (bs : List Byte) (s : State) : writeBytes bs s = sendSymbols (bs.flatMap symbolsOf) s := by
  induction bs generalizing s with
  | nil => rfl
  | cons b bs ih => simp only [writeBytes, writeByte, List.flatMap_cons, sendSymbols_append, ih]

/-- A repeated byte is its symbols repeated (44_modulation_encoder.md R154). -/
theorem repeatByte_eq (b : Byte) (n : Nat) (s : State) :
    repeatByte b n s = sendSymbols (List.replicate n (symbolsOf b)).flatten s := by
  induction n generalizing s with
  | zero => rfl
  | succ n ih =>
    simp only [repeatByte, writeByte, List.replicate_succ, List.flatten_cons, sendSymbols_append, ih]

/-- Set-up frames whose waits are all answered (45_system_configuration.md R165). -/
theorem issueAll_answered {fs : List CommandFrame} {ws : List (List Byte)} {s : State} {rest : List Byte}
    (hl : ws.length = fs.length) (hw : ∀ w ∈ ws, AnsweredWithin s.cfg.ctsLimit w)
    (h : s.rx = answers ws ++ rest) :
    issueAll fs s = .done () (s.ran (guardedFrames s.cfg ws (fs.map frameBytes)) rest) := by
  induction fs generalizing ws s with
  | nil =>
    obtain rfl : ws = [] := List.length_eq_zero_iff.1 hl
    have hr : s.rx = rest := by simpa using h
    subst hr
    simp [issueAll, State.ran]
  | cons f fs ih =>
    obtain _ | ⟨w, ws⟩ := ws
    · simp at hl
    have hx : s.rx = w ++ 0xFF#8 :: (answers ws ++ rest) := by simpa using h
    simp only [issueAll, issue_answered _ _ (hw w (by simp)) hx, Ran.bind_done]
    rw [ih (ws := ws) (by simpa using hl) (by intro w' hm; exact hw w' (by simp [hm])) rfl]
    simp [State.ran_ran, frameBytes]

/-- Set-up frames some of whose waits are answered and the next times out (45_system_configuration.md R165). -/
theorem issueAll_never {fs : List CommandFrame} {ws : List (List Byte)} {s : State} {w rest : List Byte}
    (hl : ws.length < fs.length) (hw : ∀ w ∈ ws, AnsweredWithin s.cfg.ctsLimit w)
    (hn : NeverAnswered s.cfg.ctsLimit w) (h : s.rx = answers ws ++ (w ++ rest)) :
    issueAll fs s =
      .raised .busTimeout (s.ran (guardedFrames s.cfg ws (fs.map frameBytes) ++ polls s.cfg w) rest) := by
  induction fs generalizing ws s with
  | nil => simp at hl
  | cons f fs ih =>
    obtain _ | ⟨w', ws⟩ := ws
    · simp [issueAll, issue_never _ _ hn (by simpa using h)]
    have hx : s.rx = w' ++ 0xFF#8 :: (answers ws ++ (w ++ rest)) := by simpa using h
    simp only [issueAll, issue_answered _ _ (hw w' (by simp)) hx, Ran.bind_done]
    rw [ih (ws := ws) (s := s.ran (guardedFrame s.cfg w' (f.opcode :: f.payload)) (answers ws ++ (w ++ rest)))
      (by simpa using hl) (by intro w'' hm; exact hw w'' (by simp [hm])) hn rfl]
    simp [State.ran_ran, frameBytes]

end Sys2Proof.Machine
end

