-- ==== Sys2Proof/Laws/Tuning.lean ====
section
/-! SUPPORT. The two long shared bodies: the frequency set (42_frequency_synthesizer.md R125) and what CONFIGURE does
before its handshake (45_system_configuration.md R165). -/

namespace Sys2Proof.Machine

/-! ## The frequency set -/

theorem byteAt_toNat {n : Int} (h : 0 ≤ n) : byteAt n.toNat 0 = BitVec.ofInt 8 n := by
  obtain ⟨k, rfl⟩ := Int.eq_ofNat_of_zero_le h
  simp [byteAt]

/-- A frequency set out of range (42_frequency_synthesizer.md R125, R132). -/
theorem tuneTo_outOfRange {s : State} {f d : Word} (hd : s.deviation = some d)
    (ht : ¬ Tunable f.toNat s.refclk.toNat d.toNat) : tuneTo f s = .raised .rangeFault s := by
  simp only [tuneTo, hd]
  rw [require_neg (by exact ht)]
  rfl

/-- A frequency set whose three waits are answered (42_frequency_synthesizer.md R125). -/
theorem tuneTo_answered {s : State} {f d : Word} {ws : List (List Byte)} {rest : List Byte}
    (hd : s.deviation = some d) (ht : Tunable f.toNat s.refclk.toNat d.toNat) (hl : ws.length = 3)
    (hw : ∀ w ∈ ws, AnsweredWithin s.cfg.ctsLimit w) (hx : s.rx = answers ws ++ rest) :
    tuneTo f s = .done ()
      { s.ran (guardedFrames s.cfg ws (tuningFrames s.cfg f.toNat s.refclk.toNat d.toNat)) rest with
        carrier := some f } := by
  obtain ⟨a, b, c, rfl⟩ := List.length_eq_three.1 hl
  obtain ⟨h1, h2, h3⟩ : AnsweredWithin s.cfg.ctsLimit a ∧ AnsweredWithin s.cfg.ctsLimit b ∧
    AnsweredWithin s.cfg.ctsLimit c := by simpa using hw
  simp only [tuneTo, hd]
  rw [require_pos (by exact ht)]
  simp only [Ran.bind_done, propWrite]
  rw [issue_answered (w := a) (rest := answers [b, c] ++ rest) _ _ h1 (by simpa using hx)]
  simp only [Ran.bind_done]
  rw [issue_answered (w := b) (rest := answers [c] ++ rest) _ _ (by exact h2) (by simp [State.ran])]
  simp only [Ran.bind_done, writeDeviation, propWrite]
  rw [issue_answered (w := c) (rest := rest) _ _ (by exact h3) (by simp [State.ran, State.setCarrier]),
    byteAt_toNat ht.1]
  simp [State.ran, State.setCarrier, tuningFrames, propPayload, propertyBytes, be3, bandByte]

/-- A frequency set one of whose waits times out: the frames before it were sent, and the carrier is stored if the
third wait is the one (42_frequency_synthesizer.md R125). -/
theorem tuneTo_never {s : State} {f d : Word} {ws : List (List Byte)} {w rest : List Byte}
    (hd : s.deviation = some d) (ht : Tunable f.toNat s.refclk.toNat d.toNat) (hl : ws.length < 3)
    (hw : ∀ w ∈ ws, AnsweredWithin s.cfg.ctsLimit w) (hn : NeverAnswered s.cfg.ctsLimit w)
    (hx : s.rx = answers ws ++ (w ++ rest)) :
    tuneTo f s = .raised .busTimeout
      { s.ran (guardedFrames s.cfg ws (tuningFrames s.cfg f.toNat s.refclk.toNat d.toNat) ++ polls s.cfg w) rest with
        carrier := if ws.length = 2 then some f else s.carrier } := by
  simp only [tuneTo, hd]
  rw [require_pos (by exact ht)]
  simp only [Ran.bind_done, propWrite]
  obtain _ | ⟨a, _ | ⟨b, _ | ⟨c, _⟩⟩⟩ := ws
  · rw [issue_never (w := w) (rest := rest) _ _ hn (by simpa using hx)]
    simp [State.ran]
    congr
  · have h1 : AnsweredWithin s.cfg.ctsLimit a := by simpa using hw
    rw [issue_answered (w := a) (rest := w ++ rest) _ _ h1 (by simpa using hx)]
    simp only [Ran.bind_done]
    rw [issue_never (w := w) (rest := rest) _ _ (by exact hn) (by simp [State.ran])]
    simp [State.ran, tuningFrames, propPayload, propertyBytes, bandByte]
  · obtain ⟨h1, h2⟩ : AnsweredWithin s.cfg.ctsLimit a ∧ AnsweredWithin s.cfg.ctsLimit b := by simpa using hw
    rw [issue_answered (w := a) (rest := answers [b] ++ (w ++ rest)) _ _ h1 (by simpa using hx)]
    simp only [Ran.bind_done]
    rw [issue_answered (w := b) (rest := w ++ rest) _ _ (by exact h2) (by simp [State.ran])]
    simp only [Ran.bind_done, writeDeviation, propWrite]
    rw [issue_never (w := w) (rest := rest) _ _ (by exact hn) (by simp [State.ran, State.setCarrier]),
      byteAt_toNat ht.1]
    simp [State.ran, State.setCarrier, tuningFrames, propPayload, propertyBytes, be3, bandByte]
  · simp at hl
    omega

/-! ## CONFIGURE before its handshake -/

theorem sendAll_eq (fs : List CommandFrame) (s : State) :
    sendAll fs s = { s with
      trace := s.trace ++ fs.flatMap (fun f => frameW (frameBytes f))
      nsel := if fs = [] then s.nsel else .high } := by
  induction fs generalizing s with
  | nil => simp [sendAll]
  | cons f fs ih =>
    have h : sendAll (f :: fs) s = sendAll fs (sendFrame (frameBytes f) s) := rfl
    rw [h, ih, sendFrame_eq]
    simp

theorem foldl_sdnAfter_pins (es : List PinEvent) (l : Level) :
    (es.map PinEvent.toEvent).foldl sdnAfter l = lastLevel l es := by
  induction es generalizing l with
  | nil => rfl
  | cons e es ih => cases e <;> simp [PinEvent.toEvent, sdnAfter, lastLevel, ← ih]

theorem foldl_nselAfter_pins (es : List PinEvent) (l : Level) :
    (es.map PinEvent.toEvent).foldl nselAfter l = l := by
  induction es generalizing l with
  | nil => rfl
  | cons e es ih => cases e <;> simpa [PinEvent.toEvent, nselAfter] using ih l

/-- The state CONFIGURE has when its handshake begins. -/
def State.poweredUp (cp : ChipParameters) (rp : RadioParameters) (s : State) : State :=
  { s with
    cp := cp
    rp := rp
    lc := .uninitialized
    sdn := lastLevel .low s.cfg.resetTail
    nsel := if powerupFrames s.cfg cp = [] then s.nsel else .high
    trace := s.trace ++ powerUpEvents s.cfg cp }

@[simp] theorem State.poweredUp_cfg (cp : ChipParameters) (rp : RadioParameters) (s : State) :
    (s.poweredUp cp rp).cfg = s.cfg := rfl

@[simp] theorem State.poweredUp_rx (cp : ChipParameters) (rp : RadioParameters) (s : State) :
    (s.poweredUp cp rp).rx = s.rx := rfl

/-- CONFIGURE's body, its pins and power-up frames said at once (45_system_configuration.md R165). -/
theorem configureWith_eq (cp : ChipParameters) (rp : RadioParameters) (s : State) :
    configureWith cp rp s =
      ((waitLoop s.cfg.ctsLimit (s.poweredUp cp rp)).converting .busTimeout .powerUpFailure).bind fun _ t =>
      (issueAll (setupFrames t.cfg cp rp) t).bind fun _ t =>
      (tuneTo rp.carrierHz (t.setDeviation rp.deviationHz)).bind fun _ t =>
      .done () ((t.setLc .configured).setLc .idle) := by
  have h : sendAll (powerupFrames s.cfg cp) (((s.setLc .uninitialized).latch cp rp).emits (resetSeq s.cfg)) =
      s.poweredUp cp rp := by
    rw [sendAll_eq, State.emits_eq]
    simp [resetSeq, foldl_sdnAfter_pins, foldl_nselAfter_pins, State.poweredUp, nselAfter, sdnAfter, powerUpEvents,
      State.setLc, State.latch]
  have hc : (((s.setLc .uninitialized).latch cp rp).emits (resetSeq s.cfg)).cfg = s.cfg := by
    simp [State.emits_eq, State.setLc, State.latch]
  rw [← h]
  simp only [configureWith, sendAll_eq, hc]

end Sys2Proof.Machine
end

