-- ==== Sys2Proof/Laws/Bodies.lean ====
section
/-! SUPPORT. What each body that operations share can do, whatever the chip answers: the frames it adds to the trace,
the registers it writes, and how it stops. -/

namespace Sys2Proof.Machine

/-! ## Relations between the start and the end of a body -/

/-- `t` comes after `s` by whole guarded frames whose command frames are all of the kind `A`, and delays; the registers
that no body but CONFIGURE's writes are as they were. -/
structure Grew (A : List Event → Prop) (s t : State) : Prop where
  cfg : t.cfg = s.cfg
  pending : t.pending = s.pending
  cp : t.cp = s.cp
  rp : t.rp = s.rp
  refclk : t.refclk = s.refclk
  sdn : t.sdn = s.sdn
  nsel : t.nsel = s.nsel ∨ t.nsel = .high
  events : ∃ es, t.trace = s.trace ++ es ∧ framed es = true ∧ ctsGuarded s.cfg es = true ∧
    ∀ f ∈ cutFrames none es, isCommandFrame f = true → A f

/-- `t` comes after `s` as `Grew` says, at a place where a new wait may begin: no wait is under way. -/
structure Went (A : List Event → Prop) (s t : State) : Prop extends Grew A s t where
  settled : ∃ es, t.trace = s.trace ++ es ∧ framed es = true ∧ NoFailedPollLast s.cfg es

/-- The context registers, the underflow bit and the lifecycle register are as they were. -/
structure Kept (s t : State) : Prop where
  carrier : t.carrier = s.carrier
  deviation : t.deviation = s.deviation
  uf : t.uf = s.uf
  lc : t.lc = s.lc

/-- The last events of `t` are one wait's whole budget of polls that were not ready. -/
def GaveUp (n : Nat) (s t : State) : Prop :=
  ∃ es w, NeverAnswered n w ∧ t.trace = s.trace ++ es ++ polls s.cfg w ∧ framed es = true ∧ NoFailedPollLast s.cfg es

/-- Between `s` and `t` a response frame read these bytes. -/
def ReadBack (bs : List Byte) (s t : State) : Prop :=
  ∃ es, t.trace = s.trace ++ es ∧ framed es = true ∧ bs.map .rx ∈ cutFrames none es

/-- UF holds the tested bit of seven status bytes read between `s` and `t` (10_state.md R29). -/
def UnderflowRead (s t : State) : Prop :=
  ∃ status, status.length = 7 ∧ ReadBack status s t ∧ (t.uf = true ↔ UnderflowReported s.cfg status)

theorem Grew.refl (A : List Event → Prop) (s : State) : Grew A s s :=
  ⟨rfl, rfl, rfl, rfl, rfl, rfl, .inl rfl, [], by simp⟩

theorem Grew.trans {A : List Event → Prop} {s t u : State} (h : Grew A s t) (h' : Grew A t u) : Grew A s u := by
  obtain ⟨es, he, hf, hg, ha⟩ := h.events
  obtain ⟨es', he', hf', hg', ha'⟩ := h'.events
  rw [h.cfg] at hg'
  refine ⟨h'.cfg.trans h.cfg, h'.pending.trans h.pending, h'.cp.trans h.cp, h'.rp.trans h.rp,
    h'.refclk.trans h.refclk, h'.sdn.trans h.sdn, h'.nsel.elim (fun e => h.nsel.imp e.trans e.trans) .inr, es ++ es', ?_,
    framed_append hf hf',
    ctsGuarded_append hf hg hg', ?_⟩
  · rw [he', he, List.append_assoc]
  · intro f hm
    rw [cutFrames_framed_append hf, List.mem_append] at hm
    exact hm.elim (ha f) (ha' f)

theorem Kept.refl (s : State) : Kept s s := ⟨rfl, rfl, rfl, rfl⟩

theorem Kept.trans {s t u : State} (h : Kept s t) (h' : Kept t u) : Kept s u :=
  ⟨h'.carrier.trans h.carrier, h'.deviation.trans h.deviation, h'.uf.trans h.uf, h'.lc.trans h.lc⟩

theorem Grew.released {A : List Event → Prop} {s t : State} (h : Grew A s t) (hn : s.nsel = .high) : t.nsel = .high :=
  h.nsel.elim (·.trans hn) id

theorem Went.refl (A : List Event → Prop) (s : State) : Went A s s := ⟨Grew.refl A s, [], by simp⟩

theorem Went.trans {A : List Event → Prop} {s t u : State} (h : Went A s t) (h' : Went A t u) : Went A s u := by
  obtain ⟨es, he, hf, hp⟩ := h.settled
  obtain ⟨es', he', hf', hp'⟩ := h'.settled
  rw [h.cfg] at hp'
  exact ⟨h.toGrew.trans h'.toGrew, es ++ es', by rw [he', he, List.append_assoc], framed_append hf hf',
    noFailedPollLast_append hf hp hp'⟩

theorem Went.after {A : List Event → Prop} {s t u : State} (h : Went A s t) (h' : Grew A t u) : Grew A s u :=
  h.toGrew.trans h'

theorem GaveUp.after {A : List Event → Prop} {n : Nat} {s t u : State} (h : Went A s t) (h' : GaveUp n t u) :
    GaveUp n s u := by
  obtain ⟨es, he, hf, hp⟩ := h.settled
  obtain ⟨es', w, hw, ht, hf', hp'⟩ := h'
  rw [h.cfg] at hp'
  exact ⟨es ++ es', w, hw, by rw [ht, he, h.cfg]; simp, framed_append hf hf', noFailedPollLast_append hf hp hp'⟩

theorem ReadBack.before {A : List Event → Prop} {bs : List Byte} {s t u : State} (h : ReadBack bs s t)
    (h' : Grew A t u) : ReadBack bs s u := by
  obtain ⟨es, he, hf, hm⟩ := h
  obtain ⟨es', he', hf', -⟩ := h'.events
  exact ⟨es ++ es', by rw [he', he, List.append_assoc], framed_append hf hf',
    by rw [cutFrames_framed_append hf]; exact List.mem_append_left _ hm⟩

theorem ReadBack.after {A : List Event → Prop} {bs : List Byte} {s t u : State} (h : Grew A s t)
    (h' : ReadBack bs t u) : ReadBack bs s u := by
  obtain ⟨es, he, hf, -⟩ := h.events
  obtain ⟨es', he', hf', hm⟩ := h'
  exact ⟨es ++ es', by rw [he', he, List.append_assoc], framed_append hf hf',
    by rw [cutFrames_framed_append hf]; exact List.mem_append_right _ hm⟩

theorem UnderflowRead.before {A : List Event → Prop} {s t u : State} (h : UnderflowRead s t) (h' : Grew A t u)
    (hu : u.uf = t.uf) : UnderflowRead s u := by
  obtain ⟨status, hl, hr, hb⟩ := h
  exact ⟨status, hl, hr.before h', hu ▸ hb⟩

/-- Bus events that make whole guarded frames. -/
theorem BusOnly.grew {A : List Event → Prop} {s t : State} {es : List Event} (h : BusOnly s es t)
    (hf : framed es = true) (hg : ctsGuarded s.cfg es = true)
    (ha : ∀ f ∈ cutFrames none es, isCommandFrame f = true → A f) (hs : es.foldl sdnAfter s.sdn = s.sdn) :
    Grew A s t := by
  obtain ⟨h1, -, -, h4, h5, -, -, h8, -⟩ := h.context
  exact ⟨h.cfg, h8, h4, h5, h1, h.sdn.trans hs, h.nsel ▸ nsel_framed hf s.nsel, es, h.trace, hf, hg, ha⟩

/-- Bus events that make whole guarded frames and end no wait by giving up. -/
theorem BusOnly.went {A : List Event → Prop} {s t : State} {es : List Event} (h : BusOnly s es t)
    (hf : framed es = true) (hg : ctsGuarded s.cfg es = true)
    (ha : ∀ f ∈ cutFrames none es, isCommandFrame f = true → A f) (hs : es.foldl sdnAfter s.sdn = s.sdn)
    (hp : NoFailedPollLast s.cfg es) : Went A s t :=
  ⟨h.grew hf hg ha hs, es, h.trace, hf, hp⟩

theorem BusOnly.kept {s t : State} {es : List Event} (h : BusOnly s es t) : Kept s t := by
  obtain ⟨-, h2, h3, -, -, -, h7, -⟩ := h.context
  exact ⟨h2, h3, h7, h.lc⟩

/-! ## Kinds of command frame -/

@[simp] theorem isCommandFrame_poll (p : Params) (b : Byte) :
    isCommandFrame [.tx p.wReadCmdBuff, .rx b] = false := by simp [isCommandFrame, isWrite]

@[simp] theorem isCommandFrame_resp (bs : List Byte) : isCommandFrame (bs.map .rx) = false := by
  cases bs <;> simp [isCommandFrame, isWrite]

theorem noCommand_polls (A : List Event → Prop) (p : Params) (w : List Byte) :
    ∀ f ∈ cutFrames none (polls p w), isCommandFrame f = true → A f := by
  intro f hm hc
  rw [cutFrames_polls, List.mem_map] at hm
  obtain ⟨b, -, rfl⟩ := hm
  simp at hc

theorem oneCommand_guardedFrame {A : List Event → Prop} (p : Params) (w bs : List Byte) (ha : A (bs.map .tx)) :
    ∀ f ∈ cutFrames none (guardedFrame p w bs), isCommandFrame f = true → A f := by
  intro f hm hc
  rw [guardedFrame, cutFrames_framed_append (framed_answered p w), List.mem_append, cutFrames_frameW,
    List.mem_singleton] at hm
  rcases hm with hm | rfl
  · exact noCommand_polls A p _ f hm hc
  · exact ha

theorem noCommand_readBack (A : List Event → Prop) (p : Params) (w bs : List Byte) :
    ∀ f ∈ cutFrames none (answered p w ++ frameR bs), isCommandFrame f = true → A f := by
  intro f hm hc
  rw [cutFrames_framed_append (framed_answered p w), List.mem_append, cutFrames_frameR, List.mem_singleton] at hm
  rcases hm with hm | rfl
  · exact noCommand_polls A p _ f hm hc
  · simp at hc

/-! ## Rules for `Ran.All` -/

/-- Pieces in a row, each with what it says of its own start. -/
theorem Ran.All.next {α β : Type} {P : α → State → Prop} {P' : β → State → Prop} {Q Q' : Kind → State → Prop}
    {r : Ran α} {f : α → State → Ran β} (h : r.All P Q) (hf : ∀ a t, P a t → (f a t).All P' Q')
    (hq : ∀ k t, Q k t → Q' k t) : (r.bind f).All P' Q' := by
  cases r with
  | done a s => exact hf a s h
  | raised k s => exact hq k s h

/-- How a host operation whose body is known can end. -/
theorem settle_cases {P : Result → State → Prop} {Q : Kind → State → Prop} {r : Ran Result} {t : State}
    (h : r.All P Q) (ht : finish r = .next t) :
    (∃ v u, P v u ∧ t = u.returnOk v) ∨ (∃ k u, Q k u ∧ t = u.raise k) := by
  cases r with
  | done v u => exact .inl ⟨v, u, h, by simpa [finish, eq_comm] using ht⟩
  | raised k u => exact .inr ⟨k, u, h, by simpa [finish, eq_comm] using ht⟩

/-! ## The waits -/

/-- A wait of `n` polls: nothing but polls; it ends ready, or gives up with BusTimeout. -/
theorem waitLoop_all (A : List Event → Prop) (n : Nat) (s : State) :
    (waitLoop n s).All (fun _ t => Went A s t ∧ Kept s t)
      (fun k t => k = .busTimeout ∧ Grew A s t ∧ Kept s t ∧ GaveUp n s t) := by
  rcases waitLoop_cases n s with ⟨w, t, hw, ht, hr⟩ | ⟨w, t, hw, ht, hr⟩
  · rw [hr]
    exact ⟨ht.went (framed_answered _ _) (ctsGuarded_answered _ _) (noCommand_polls A _ _) (by simp) (by simp),
      ht.kept⟩
  · rw [hr]
    exact ⟨rfl, ht.grew (framed_polls _ _) (ctsGuarded_polls _ _) (noCommand_polls A _ _) (by simp), ht.kept,
      [], w, hw, by simpa using ht.trace, rfl, by simp⟩

/-- A response read: it yields as many bytes as were asked for, which it read in one frame, or gives up with BusTimeout. -/
theorem readResponse_all (A : List Event → Prop) (n limit : Nat) (s : State) :
    (readResponse n limit s).All (fun bs t => bs.length = n ∧ Went A s t ∧ Kept s t ∧ ReadBack bs s t)
      (fun k t => k = .busTimeout ∧ Grew A s t ∧ Kept s t ∧ GaveUp limit s t) := by
  rcases readResponse_cases n limit s with ⟨w, bs, t, hw, hl, ht, hr⟩ | ⟨w, t, hw, ht, hr⟩
  · rw [hr]
    have hf := framed_append (framed_answered s.cfg w) (framed_frameR bs)
    refine ⟨hl, ht.went hf
      (ctsGuarded_append (framed_answered _ _) (ctsGuarded_answered _ _) (ctsGuarded_frameR _ _))
      (noCommand_readBack A _ _ _) (by simp)
      (noFailedPollLast_append (framed_answered _ _) (by simp) (by simp)), ht.kept, _, ht.trace, hf, ?_⟩
    rw [cutFrames_framed_append (framed_answered _ _)]
    simp
  · rw [hr]
    exact ⟨rfl, ht.grew (framed_polls _ _) (ctsGuarded_polls _ _) (noCommand_polls A _ _) (by simp), ht.kept,
      [], w, hw, by simpa using ht.trace, rfl, by simp⟩

/-- ISSUE: one command frame after a ready poll, or it gives up with BusTimeout. -/
theorem issue_all {A : List Event → Prop} (opcode : Byte) (payload : List Byte) (s : State)
    (ha : A ((opcode :: payload).map .tx)) :
    (issue opcode payload s).All (fun _ t => Went A s t ∧ Kept s t)
      (fun k t => k = .busTimeout ∧ Grew A s t ∧ Kept s t ∧ GaveUp s.cfg.ctsLimit s t) := by
  rcases issue_cases opcode payload s with ⟨w, t, hw, ht, hr⟩ | ⟨w, t, hw, ht, hr⟩
  · rw [hr]
    exact ⟨ht.went (framed_guardedFrame _ _ _) (ctsGuarded_guardedFrame _ _ _) (oneCommand_guardedFrame _ _ _ ha)
      (by simp) (by simp), ht.kept⟩
  · rw [hr]
    exact ⟨rfl, ht.grew (framed_polls _ _) (ctsGuarded_polls _ _) (noCommand_polls A _ _) (by simp), ht.kept,
      [], w, hw, by simpa using ht.trace, rfl, by simp⟩

/-- ISSUE_R: a command frame and its response, or it gives up with BusTimeout. -/
theorem issueR_all {A : List Event → Prop} (opcode : Byte) (payload : List Byte) (n : Nat) (s : State)
    (ha : A ((opcode :: payload).map .tx)) :
    (issueR opcode payload n s).All (fun bs t => bs.length = n ∧ Went A s t ∧ Kept s t ∧ ReadBack bs s t)
      (fun k t => k = .busTimeout ∧ Grew A s t ∧ Kept s t ∧ GaveUp s.cfg.ctsLimit s t) :=
  (issue_all opcode payload s ha).next
    (fun _ t ht => (readResponse_all A n t.cfg.ctsLimit t).mono
      (fun _ _ h => ⟨h.1, ht.1.trans h.2.1, ht.2.trans h.2.2.1, ReadBack.after ht.1.toGrew h.2.2.2⟩)
      (fun _ _ h => ⟨h.1, ht.1.after h.2.1, ht.2.trans h.2.2.1, GaveUp.after ht.1 (ht.1.cfg ▸ h.2.2.2)⟩))
    (fun _ _ h => h)

/-! ## The bodies -/

/-- A register write or a delay after a body adds no frame. -/
theorem went_emit_dlyMs (A : List Event → Prop) (n : Nat) (s : State) : Went A s (s.emit (.dlyMs n)) :=
  ⟨⟨rfl, rfl, rfl, rfl, rfl, rfl, .inl rfl, [.dlyMs n], rfl, rfl, rfl, by simp⟩, [.dlyMs n], rfl, rfl, by simp⟩

theorem kept_emit (e : Event) (s : State) : Kept s (s.emit e) := ⟨rfl, rfl, rfl, rfl⟩

theorem went_setLc (A : List Event → Prop) (l : Lifecycle) (s : State) : Went A s (s.setLc l) :=
  ⟨⟨rfl, rfl, rfl, rfl, rfl, rfl, .inl rfl, [], by simp [State.setLc]⟩, [], by simp [State.setLc]⟩

theorem went_setUf (A : List Event → Prop) (b : Bool) (s : State) : Went A s (s.setUf b) :=
  ⟨⟨rfl, rfl, rfl, rfl, rfl, rfl, .inl rfl, [], by simp [State.setUf]⟩, [], by simp [State.setUf]⟩

theorem went_setCarrier (A : List Event → Prop) (f : Word) (s : State) : Went A s (s.setCarrier f) :=
  ⟨⟨rfl, rfl, rfl, rfl, rfl, rfl, .inl rfl, [], by simp [State.setCarrier]⟩, [], by simp [State.setCarrier]⟩

theorem went_setDeviation (A : List Event → Prop) (d : Word) (s : State) : Went A s (s.setDeviation d) :=
  ⟨⟨rfl, rfl, rfl, rfl, rfl, rfl, .inl rfl, [], by simp [State.setDeviation]⟩, [], by simp [State.setDeviation]⟩

/-- A state command: LC takes the state's value, or it gives up with BusTimeout. -/
theorem commandState_all {A : List Event → Prop} (target : OpState) (s : State)
    (ha : A [.tx s.cfg.wChangeState, .tx (s.cfg.stateCode target)]) :
    (commandState target s).All
      (fun _ t => Went A s t ∧ t.carrier = s.carrier ∧ t.deviation = s.deviation ∧ t.uf = s.uf ∧
        t.lc = lifecycleOf target)
      (fun k t => k = .busTimeout ∧ Grew A s t ∧ Kept s t ∧ GaveUp s.cfg.ctsLimit s t) :=
  (issue_all _ _ s ha).next
    (fun _ t h => ⟨h.1.trans (went_setLc A _ t), h.2.carrier, h.2.deviation, h.2.uf, rfl⟩)
    (fun _ _ h => h)

/-- An underflow check: UF takes the tested bit of the status bytes it read, or it gives up with BusTimeout. -/
theorem checkUnderflow_all (s : State) :
    (checkUnderflow s).All
      (fun b t => Went (fun _ => True) s t ∧ t.carrier = s.carrier ∧ t.deviation = s.deviation ∧ t.uf = b ∧
        t.lc = s.lc ∧ UnderflowRead s t)
      (fun k t => k = .busTimeout ∧ Grew (fun _ => True) s t ∧ Kept s t ∧ GaveUp s.cfg.ctsLimit s t) :=
  (issueR_all _ _ 7 s trivial).next
    (fun bs t h =>
      have hu := went_setUf (fun _ => True) (underflowBit t.cfg bs) t
      ⟨h.2.1.trans hu, h.2.2.1.carrier, h.2.2.1.deviation, rfl, h.2.2.1.lc, bs, h.1,
        h.2.2.2.before hu.toGrew, by simp [State.setUf, h.2.1.cfg, underflowBit, UnderflowReported]⟩)
    (fun _ _ h => h)

/-- A FIFO clear: only UF can change, by its underflow check, or it gives up with BusTimeout. -/
theorem clearFifo_all (s : State) :
    (clearFifo s).All
      (fun _ t => Went (fun _ => True) s t ∧ t.carrier = s.carrier ∧ t.deviation = s.deviation ∧ t.lc = s.lc ∧
        UnderflowRead s t)
      (fun k t => k = .busTimeout ∧ Grew (fun _ => True) s t ∧ t.carrier = s.carrier ∧ t.deviation = s.deviation ∧
        t.lc = s.lc ∧ (t.uf = s.uf ∨ UnderflowRead s t) ∧ GaveUp s.cfg.ctsLimit s t) :=
  (checkUnderflow_all s).next
    (fun _ t h => (issue_all _ _ t trivial).mono
      (fun _ _ g => ⟨h.1.trans g.1, g.2.carrier.trans h.2.1, g.2.deviation.trans h.2.2.1, g.2.lc.trans h.2.2.2.2.1,
        h.2.2.2.2.2.before g.1.toGrew g.2.uf⟩)
      (fun _ _ g => ⟨g.1, h.1.after g.2.1, g.2.2.1.carrier.trans h.2.1, g.2.2.1.deviation.trans h.2.2.1,
        g.2.2.1.lc.trans h.2.2.2.2.1, .inr (h.2.2.2.2.2.before g.2.1 g.2.2.1.uf),
        GaveUp.after h.1 (h.1.cfg ▸ g.2.2.2)⟩))
    (fun _ _ h => ⟨h.1, h.2.1, h.2.2.1.carrier, h.2.2.1.deviation, h.2.2.1.lc, .inl h.2.2.1.uf, h.2.2.2⟩)

/-- A device-state query changes no register, or gives up with BusTimeout. -/
theorem queryState_all (s : State) :
    (queryState s).All (fun _ t => Went (fun _ => True) s t ∧ Kept s t)
      (fun k t => k = .busTimeout ∧ Grew (fun _ => True) s t ∧ Kept s t ∧ GaveUp s.cfg.ctsLimit s t) :=
  (issueR_all _ _ _ s trivial).next (fun _ _ h => ⟨h.2.1, h.2.2.1⟩) (fun _ _ h => h)

/-- The loop of WAIT_TX_COMPLETE changes no register, or gives up with BusTimeout. -/
theorem doneLoop_all (n : Nat) (s : State) :
    (doneLoop n s).All (fun _ t => Went (fun _ => True) s t ∧ Kept s t)
      (fun k t => k = .busTimeout ∧ Grew (fun _ => True) s t ∧ Kept s t ∧ GaveUp s.cfg.ctsLimit s t) := by
  induction n generalizing s with
  | zero => exact ⟨Went.refl _ s, Kept.refl s⟩
  | succ n ih =>
    refine (queryState_all s).next (fun c t h => ?_) (fun _ _ h => h)
    split
    · exact h
    · have hg := h.1.trans (went_emit_dlyMs _ 1 t)
      have hk := h.2.trans (kept_emit (.dlyMs 1) t)
      exact (ih _).mono (fun _ _ g => ⟨hg.trans g.1, hk.trans g.2⟩)
        (fun _ _ g => ⟨g.1, hg.after g.2.1, hk.trans g.2.2.1, GaveUp.after hg (hg.cfg ▸ g.2.2.2)⟩)

/-- An offset write: the offset frame, or RangeFault before any event, or it gives up with BusTimeout. -/
theorem writeOffset_all {A : List Event → Prop} (offset : Nat) (s : State)
    (ha : A ((propertyBytes s.cfg s.cfg.wGOffset 2#8 s.cfg.wIOffset (be2 offset)).map .tx)) :
    (writeOffset offset s).All (fun _ t => Went A s t ∧ Kept s t)
      (fun k t => (k = .rangeFault ∧ 2 ^ 16 ≤ offset ∧ t = s) ∨
        (k = .busTimeout ∧ Grew A s t ∧ Kept s t ∧ GaveUp s.cfg.ctsLimit s t)) := by
  by_cases h : offset < 2 ^ 16
  · rw [writeOffset, require_pos h]
    exact (issue_all _ _ s ha).mono (fun _ _ g => g) (fun _ _ g => .inr g)
  · rw [writeOffset, require_neg h]
    exact .inl ⟨rfl, by omega, rfl⟩

/-- The one command frame a 4FSK operation sends, its two offset bytes apart (44_modulation_encoder.md R161). -/
def IsOffsetFrame (p : Params) (f : List Event) : Prop :=
  ∃ hi lo, f = [.tx p.wSetProperty, .tx p.wGOffset, .tx 0x02#8, .tx p.wIOffset, .tx hi, .tx lo]

/-- Symbols: offset frames and holds, or they give up with BusTimeout. -/
theorem sendSymbols_all (ys : List (BitVec 2)) (s : State) :
    (sendSymbols ys s).All (fun _ t => Went (IsOffsetFrame s.cfg) s t ∧ Kept s t)
      (fun k t => k = .busTimeout ∧ Grew (IsOffsetFrame s.cfg) s t ∧ Kept s t ∧ GaveUp s.cfg.ctsLimit s t) := by
  induction ys generalizing s with
  | nil => exact ⟨Went.refl _ s, Kept.refl s⟩
  | cons y ys ih =>
    refine (writeOffset_all (A := IsOffsetFrame s.cfg) (offsetLut y) s ⟨_, _, rfl⟩).next (fun _ t h => ?_) (fun k t h => ?_)
    · have hg := h.1.trans (went_emit_dlyMs _ t.cfg.tSymMs t)
      have hk := h.2.trans (kept_emit (.dlyMs t.cfg.tSymMs) t)
      have hi := ih (t.emit (.dlyMs t.cfg.tSymMs))
      rw [hg.cfg] at hi
      exact hi.mono (fun _ _ g => ⟨hg.trans g.1, hk.trans g.2⟩)
        (fun _ _ g => ⟨g.1, hg.after g.2.1, hk.trans g.2.2.1, GaveUp.after hg g.2.2.2⟩)
    · rcases h with ⟨-, h, -⟩ | h
      · exact absurd (offsetLut_lt y) (by omega)
      · exact h

/-- A frequency set: the carrier is stored if it runs to its end, and only the carrier can change
(42_frequency_synthesizer.md R125). -/
theorem tuneTo_all (f : Word) (s : State) :
    (tuneTo f s).All
      (fun _ t => Went (fun _ => True) s t ∧ t.carrier = some f ∧ s.deviation ≠ none ∧ t.deviation = s.deviation ∧
        t.uf = s.uf ∧ t.lc = s.lc)
      (fun k t => Grew (fun _ => True) s t ∧ (t.carrier = s.carrier ∨ t.carrier = some f) ∧
        t.deviation = s.deviation ∧ t.uf = s.uf ∧ t.lc = s.lc ∧
        ((k = .unwritten ∧ s.deviation = none ∧ t = s) ∨ (k = .rangeFault ∧ t = s) ∨
          (k = .busTimeout ∧ GaveUp s.cfg.ctsLimit s t))) := by
  unfold tuneTo
  split
  · rename_i hd
    exact ⟨Grew.refl _ s, .inl rfl, rfl, rfl, rfl, .inl ⟨rfl, hd, rfl⟩⟩
  · rename_i d hd
    refine Ran.All.next (P := fun _ t => t = s) (Q := fun k t => k = .rangeFault ∧ t = s)
      (require_all (fun _ => rfl) (fun _ => ⟨rfl, rfl⟩)) ?_ ?_
    · rintro _ _ rfl
      refine (issue_all _ _ _ trivial).next (fun _ t h => ?_)
        (fun _ _ h => ⟨h.2.1, .inl h.2.2.1.carrier, h.2.2.1.deviation, h.2.2.1.uf, h.2.2.1.lc, .inr (.inr ⟨h.1, h.2.2.2⟩)⟩)
      refine (issue_all _ _ _ trivial).next (fun _ u g => ?_)
        (fun _ _ g => ⟨h.1.after g.2.1, .inl (h.2.trans g.2.2.1).carrier, (h.2.trans g.2.2.1).deviation,
          (h.2.trans g.2.2.1).uf, (h.2.trans g.2.2.1).lc,
          .inr (.inr ⟨g.1, GaveUp.after h.1 (h.1.cfg ▸ g.2.2.2)⟩)⟩)
      have hg := (h.1.trans g.1).trans (went_setCarrier _ f u)
      have hk := h.2.trans g.2
      exact (issue_all _ _ _ trivial).mono
        (fun _ _ e => ⟨hg.trans e.1, e.2.carrier, by simp [hd], e.2.deviation.trans hk.deviation,
          e.2.uf.trans hk.uf, e.2.lc.trans hk.lc⟩)
        (fun _ _ e => ⟨hg.after e.2.1, .inr e.2.2.1.carrier, e.2.2.1.deviation.trans hk.deviation,
          e.2.2.1.uf.trans hk.uf, e.2.2.1.lc.trans hk.lc,
          .inr (.inr ⟨e.1, GaveUp.after hg (hg.cfg ▸ e.2.2.2)⟩)⟩)
    · rintro k _ ⟨rfl, rfl⟩
      exact ⟨Grew.refl _ _, .inl rfl, rfl, rfl, rfl, .inr (.inl ⟨rfl, rfl⟩)⟩

/-- A deviation set: the deviation is stored unless a check stops it, and only the deviation can change
(42_frequency_synthesizer.md R128). -/
theorem deviateBy_all (d : Word) (s : State) :
    (deviateBy d s).All
      (fun _ t => Went (fun _ => True) s t ∧ t.carrier = s.carrier ∧ s.carrier ≠ none ∧ t.deviation = some d ∧
        t.uf = s.uf ∧ t.lc = s.lc)
      (fun k t => Grew (fun _ => True) s t ∧ t.carrier = s.carrier ∧
        (t.deviation = s.deviation ∨ t.deviation = some d) ∧ t.uf = s.uf ∧ t.lc = s.lc ∧
        ((k = .unwritten ∧ s.carrier = none ∧ t = s) ∨ (k = .rangeFault ∧ t = s) ∨
          (k = .busTimeout ∧ GaveUp s.cfg.ctsLimit s t))) := by
  unfold deviateBy
  split
  · rename_i hc
    exact ⟨Grew.refl _ s, rfl, .inl rfl, rfl, rfl, .inl ⟨rfl, hc, rfl⟩⟩
  · rename_i c hc
    refine Ran.All.next (P := fun _ t => t = s) (Q := fun k t => k = .rangeFault ∧ t = s)
      (require_all (fun _ => rfl) (fun _ => ⟨rfl, rfl⟩)) ?_ ?_
    · rintro _ s rfl
      have hg := went_setDeviation (fun _ => True) d s
      exact (issue_all _ _ _ trivial).mono
        (fun _ _ e => ⟨hg.trans e.1, e.2.carrier, by simp [hc], e.2.deviation, e.2.uf, e.2.lc⟩)
        (fun _ _ e => ⟨hg.after e.2.1, e.2.2.1.carrier, .inr e.2.2.1.deviation, e.2.2.1.uf, e.2.2.1.lc,
          .inr (.inr ⟨e.1, GaveUp.after hg e.2.2.2⟩)⟩)
    · rintro k _ ⟨rfl, rfl⟩
      exact ⟨Grew.refl _ _, rfl, .inl rfl, rfl, rfl, .inr (.inl ⟨rfl, rfl⟩)⟩

/-- Set-up frames change no register, or give up with BusTimeout. -/
theorem issueAll_all (fs : List CommandFrame) (s : State) :
    (issueAll fs s).All (fun _ t => Went (fun _ => True) s t ∧ Kept s t)
      (fun k t => k = .busTimeout ∧ Grew (fun _ => True) s t ∧ Kept s t ∧ GaveUp s.cfg.ctsLimit s t) := by
  induction fs generalizing s with
  | nil => exact ⟨Went.refl _ s, Kept.refl s⟩
  | cons f fs ih =>
    exact (issue_all _ _ s trivial).next
      (fun _ t h => (ih t).mono (fun _ _ g => ⟨h.1.trans g.1, h.2.trans g.2⟩)
        (fun _ _ g => ⟨g.1, h.1.after g.2.1, h.2.trans g.2.2.1, GaveUp.after h.1 (h.1.cfg ▸ g.2.2.2)⟩))
      (fun _ _ h => h)

/-- CONFIGURE after its power check: both context registers and LC written at its end; otherwise PowerUpFailure or
BusTimeout from a wait that gave up, or RangeFault, with LC Uninitialized (45_system_configuration.md R165). -/
theorem configureWith_all (cp : ChipParameters) (rp : RadioParameters) (s : State) :
    (configureWith cp rp s).All
      (fun _ t => Went (fun _ => True) (s.poweredUp cp rp) t ∧ t.carrier = some rp.carrierHz ∧
        t.deviation = some rp.deviationHz ∧ t.uf = s.uf ∧ t.lc = .idle)
      (fun k t => Grew (fun _ => True) (s.poweredUp cp rp) t ∧
        (t.carrier = s.carrier ∨ t.carrier = some rp.carrierHz) ∧
        (t.deviation = s.deviation ∨ t.deviation = some rp.deviationHz) ∧ t.uf = s.uf ∧ t.lc = .uninitialized ∧
        (k = .rangeFault ∨
          ((k = .powerUpFailure ∨ k = .busTimeout) ∧ GaveUp s.cfg.ctsLimit (s.poweredUp cp rp) t))) := by
  rw [configureWith_eq]
  have hwait : ((waitLoop s.cfg.ctsLimit (s.poweredUp cp rp)).converting .busTimeout .powerUpFailure).All
      (fun _ t => Went (fun _ => True) (s.poweredUp cp rp) t ∧ Kept (s.poweredUp cp rp) t)
      (fun k t => k = .powerUpFailure ∧ Grew (fun _ => True) (s.poweredUp cp rp) t ∧ Kept (s.poweredUp cp rp) t ∧
        GaveUp s.cfg.ctsLimit (s.poweredUp cp rp) t) := by
    have h := waitLoop_all (fun _ => True) s.cfg.ctsLimit (s.poweredUp cp rp)
    revert h
    cases waitLoop s.cfg.ctsLimit (s.poweredUp cp rp) with
    | done a t => exact id
    | raised k t => rintro ⟨rfl, h⟩; exact ⟨rfl, h⟩
  refine hwait.next (fun _ t h => ?_)
    (fun _ _ h => ⟨h.2.1, .inl h.2.2.1.carrier, .inl h.2.2.1.deviation, h.2.2.1.uf, h.2.2.1.lc,
      .inr ⟨.inl h.1, h.2.2.2⟩⟩)
  refine (issueAll_all _ t).next (fun _ u g => ?_)
    (fun _ _ g => ⟨h.1.after g.2.1, .inl (h.2.trans g.2.2.1).carrier, .inl (h.2.trans g.2.2.1).deviation,
      (h.2.trans g.2.2.1).uf, (h.2.trans g.2.2.1).lc,
      .inr ⟨.inr g.1, GaveUp.after h.1 (by have hc := h.1.cfg; rw [State.poweredUp_cfg] at hc; exact hc ▸ g.2.2.2)⟩⟩)
  have hk := h.2.trans g.2
  have hg := (h.1.trans g.1).trans (went_setDeviation (fun _ => True) rp.deviationHz u)
  have hc : (u.setDeviation rp.deviationHz).cfg = s.cfg := hg.cfg
  refine (tuneTo_all _ _).next (fun _ v e => ?_) (fun k v e => ?_)
  · exact ⟨(hg.trans e.1).trans ((went_setLc _ .configured v).trans (went_setLc _ .idle _)), e.2.1, e.2.2.2.1,
      e.2.2.2.2.1.trans hk.uf, rfl⟩
  · refine ⟨hg.after e.1, e.2.1.imp (·.trans hk.carrier) id, .inr e.2.2.1, e.2.2.2.1.trans hk.uf,
      e.2.2.2.2.1.trans hk.lc, ?_⟩
    rcases e.2.2.2.2.2 with ⟨-, h, -⟩ | ⟨h, -⟩ | ⟨h, h'⟩
    · exact absurd h (by simp [State.setDeviation])
    · exact .inl h
    · exact .inr ⟨.inr h, GaveUp.after hg (hc ▸ h')⟩

/-! ## How many events symbols add -/

@[simp] theorem length_polls (p : Params) (w : List Byte) : (polls p w).length = 4 * w.length := by
  induction w with
  | nil => rfl
  | cons b w ih => rw [polls_cons, List.length_append, ih, List.length_cons]; simp [framePoll]; omega

@[simp] theorem count_dlyMs_polls (p : Params) (w : List Byte) (t : Nat) : (polls p w).count (.dlyMs t) = 0 := by
  simp [List.count_eq_zero, polls, framePoll]

@[simp] theorem count_dlyMs_frameW (bs : List Byte) (t : Nat) : (frameW bs).count (.dlyMs t) = 0 := by
  simp [List.count_eq_zero, frameW]

/-- `t` comes after `s` by at most `n` symbols' worth of bus events, and `k` holds (70_reset_and_hazards.md R217). -/
def SentSymbols (n k : Nat) (s t : State) : Prop :=
  t.cfg = s.cfg ∧ ∃ es, t.trace = s.trace ++ es ∧ es.count (.dlyMs s.cfg.tSymMs) = k ∧
    es.length ≤ n * (4 * s.cfg.ctsLimit + 8) + k

theorem SentSymbols.trans {n k n' k' : Nat} {s t u : State} (h : SentSymbols n k s t) (h' : SentSymbols n' k' t u) :
    SentSymbols (n + n') (k + k') s u := by
  obtain ⟨hc, es, ht, hk, hl⟩ := h
  obtain ⟨hc', es', ht', hk', hl'⟩ := h'
  rw [hc] at hk' hl'
  refine ⟨hc'.trans hc, es ++ es', by rw [ht', ht, List.append_assoc], by rw [List.count_append, hk, hk'], ?_⟩
  rw [List.length_append, Nat.add_mul]
  omega

/-- How many events symbols add: all their holds, or fewer where a wait gives up. -/
theorem sendSymbols_counts (ys : List (BitVec 2)) (s : State) :
    (sendSymbols ys s).All (fun _ t => SentSymbols ys.length ys.length s t)
      (fun _ t => ∃ k ≤ ys.length, SentSymbols ys.length k s t) := by
  induction ys generalizing s with
  | nil => exact ⟨rfl, [], by simp⟩
  | cons y ys ih =>
    have h1 : (writeOffset (offsetLut y) s).All (fun _ t => SentSymbols 1 0 s t) (fun _ t => SentSymbols 1 0 s t) := by
      rw [writeOffset, require_pos (offsetLut_lt y), Ran.bind_done, propWrite]
      rcases issue_cases s.cfg.wSetProperty (propPayload s.cfg.wGOffset s.cfg.wIOffset (be2 (offsetLut y))) s with
        ⟨w, t, hw, ht, hr⟩ | ⟨w, t, hw, ht, hr⟩
      · rw [hr]
        refine ⟨ht.cfg, _, ht.trace, by simp [guardedFrame, answered], ?_⟩
        have := hw.1
        simp [guardedFrame, answered, frameW, propPayload, be2]
        omega
      · rw [hr]
        refine ⟨ht.cfg, _, ht.trace, by simp, ?_⟩
        have := hw.1
        simp
        omega
    refine h1.next (fun _ t h => ?_) (fun _ t h => ?_)
    · have hd : SentSymbols 0 1 t (t.emit (.dlyMs t.cfg.tSymMs)) := ⟨rfl, [.dlyMs t.cfg.tSymMs], rfl, by simp, by simp⟩
      have hs := h.trans hd
      refine (ih _).mono (fun _ _ g => ?_) (fun _ _ g => ?_)
      · have := hs.trans g
        rwa [Nat.add_comm (1 + 0), Nat.add_comm (0 + 1)] at this
      · obtain ⟨k, hk, g⟩ := g
        have := hs.trans g
        rw [Nat.add_comm (1 + 0)] at this
        exact ⟨_, by simp; omega, this⟩
    · refine ⟨0, by omega, ?_⟩
      have := h.trans (⟨rfl, [], by simp⟩ : SentSymbols ys.length 0 t t)
      rwa [Nat.add_comm 1] at this

end Sys2Proof.Machine
end

