-- ==== Sys2Proof/Laws/PerInstr.lean ====
section
/-! SUPPORT. The family of statements made for every instruction: what its code looks like. -/

namespace Sys2Proof.Laws

/-- The frame is one of the three shapes a reader of the trace can tell apart (30_encoding.md R92): all bytes read, the
poll, or all bytes written and at least one. -/
def readableShape (p : Params) (f : List Slot) : Bool :=
  f.all (· == .inn) || f == [.out p.wReadCmdBuff, .inn] || (writtenBytes f).any (· ≠ [])

/-- A host operation, and nothing else, is a request, and its OP value is one of 30_encoding.md R77; a wire frame has a
shape a reader can tell (R92). -/
def EncodedForm.Statement (i : Instr) : Prop :=
  ∀ p : Params, match encode p i with
    | .host r => i.isHostOp = true ∧ r.op ∈ Machine.operationCodes
    | .wire f => i.isHostOp = false ∧ readableShape p f = true

/-- A frame of written bytes has a readable shape. -/
theorem readableShape_commandSlots (p : Params) (b : Byte) (bs : List Byte) :
    readableShape p (commandSlots (b :: bs)) = true := by
  have h : ∀ l : List Byte, writtenBytes (commandSlots l) = some l := by
    intro l
    induction l with
    | nil => rfl
    | cons a l ih => simpa [commandSlots, writtenBytes] using ih
  simp [readableShape, h]

theorem EncodedForm.configure (cp : ChipParameters) (rp : RadioParameters) : EncodedForm.Statement (.configure cp rp) :=
  fun _ => ⟨rfl, by simp [Machine.operationCodes, Request.bare]⟩

theorem EncodedForm.setPower (v : Word) : EncodedForm.Statement (.setPower v) :=
  fun _ => ⟨rfl, by simp [Machine.operationCodes, Request.bare]⟩

theorem EncodedForm.readContext (sel : ContextSel) : EncodedForm.Statement (.readContext sel) :=
  fun _ => ⟨rfl, by simp [Machine.operationCodes, Request.bare]⟩

theorem EncodedForm.sendCommand (opcode : Word) (payload : List Byte) : EncodedForm.Statement (.sendCommand opcode payload) :=
  fun _ => ⟨rfl, by simp [Machine.operationCodes, Request.bare]⟩

theorem EncodedForm.waitCts (v : Word) : EncodedForm.Statement (.waitCts v) :=
  fun _ => ⟨rfl, by simp [Machine.operationCodes, Request.bare]⟩

theorem EncodedForm.readResponse (length limit : Word) : EncodedForm.Statement (.readResponse length limit) :=
  fun _ => ⟨rfl, by simp [Machine.operationCodes, Request.bare]⟩

theorem EncodedForm.setState (target : OpState) : EncodedForm.Statement (.setState target) :=
  fun _ => ⟨rfl, by simp [Machine.operationCodes, Request.bare]⟩

theorem EncodedForm.enableTx : EncodedForm.Statement .enableTx :=
  fun _ => ⟨rfl, by simp [Machine.operationCodes, Request.bare]⟩

theorem EncodedForm.inhibitTx : EncodedForm.Statement .inhibitTx :=
  fun _ => ⟨rfl, by simp [Machine.operationCodes, Request.bare]⟩

theorem EncodedForm.disableTx : EncodedForm.Statement .disableTx :=
  fun _ => ⟨rfl, by simp [Machine.operationCodes, Request.bare]⟩

theorem EncodedForm.selectOutdiv (v : Word) : EncodedForm.Statement (.selectOutdiv v) :=
  fun _ => ⟨rfl, by simp [Machine.operationCodes, Request.bare]⟩

theorem EncodedForm.selectBand (v : Word) : EncodedForm.Statement (.selectBand v) :=
  fun _ => ⟨rfl, by simp [Machine.operationCodes, Request.bare]⟩

theorem EncodedForm.setTxFrequency (v : Word) : EncodedForm.Statement (.setTxFrequency v) :=
  fun _ => ⟨rfl, by simp [Machine.operationCodes, Request.bare]⟩

theorem EncodedForm.calcDeviation (v : Word) : EncodedForm.Statement (.calcDeviation v) :=
  fun _ => ⟨rfl, by simp [Machine.operationCodes, Request.bare]⟩

theorem EncodedForm.setDeviation (v : Word) : EncodedForm.Statement (.setDeviation v) :=
  fun _ => ⟨rfl, by simp [Machine.operationCodes, Request.bare]⟩

theorem EncodedForm.setReferenceClock (v : Word) : EncodedForm.Statement (.setReferenceClock v) :=
  fun _ => ⟨rfl, by simp [Machine.operationCodes, Request.bare]⟩

theorem EncodedForm.setFrequencyOffset (v : Word) : EncodedForm.Statement (.setFrequencyOffset v) :=
  fun _ => ⟨rfl, by simp [Machine.operationCodes, Request.bare]⟩

theorem EncodedForm.checkClearUnderflow : EncodedForm.Statement .checkClearUnderflow :=
  fun _ => ⟨rfl, by simp [Machine.operationCodes, Request.bare]⟩

theorem EncodedForm.clearFifo : EncodedForm.Statement .clearFifo :=
  fun _ => ⟨rfl, by simp [Machine.operationCodes, Request.bare]⟩

theorem EncodedForm.startTx (buffer : List Byte) : EncodedForm.Statement (.startTx buffer) :=
  fun _ => ⟨rfl, by simp [Machine.operationCodes, Request.bare]⟩

theorem EncodedForm.waitTxComplete (v : Word) : EncodedForm.Statement (.waitTxComplete v) :=
  fun _ => ⟨rfl, by simp [Machine.operationCodes, Request.bare]⟩

theorem EncodedForm.requestDeviceState : EncodedForm.Statement .requestDeviceState :=
  fun _ => ⟨rfl, by simp [Machine.operationCodes, Request.bare]⟩

theorem EncodedForm.fsk4Write (buffer : List Byte) : EncodedForm.Statement (.fsk4Write buffer) :=
  fun _ => ⟨rfl, by simp [Machine.operationCodes, Request.bare]⟩

theorem EncodedForm.fsk4WriteByte (v : Word) : EncodedForm.Statement (.fsk4WriteByte v) :=
  fun _ => ⟨rfl, by simp [Machine.operationCodes, Request.bare]⟩

theorem EncodedForm.fsk4Preamble (v : Word) : EncodedForm.Statement (.fsk4Preamble v) :=
  fun _ => ⟨rfl, by simp [Machine.operationCodes, Request.bare]⟩

theorem EncodedForm.fsk4Idle : EncodedForm.Statement .fsk4Idle :=
  fun _ => ⟨rfl, by simp [Machine.operationCodes, Request.bare]⟩

theorem EncodedForm.cwMark (v : Word) : EncodedForm.Statement (.cwMark v) :=
  fun _ => ⟨rfl, by simp [Machine.operationCodes, Request.bare]⟩

theorem EncodedForm.cwSpace (v : Word) : EncodedForm.Statement (.cwSpace v) :=
  fun _ => ⟨rfl, by simp [Machine.operationCodes, Request.bare]⟩

theorem EncodedForm.wfSetProperty (group start : Byte) (values : List Byte) : EncodedForm.Statement (.wfSetProperty group start values) :=
  fun p => ⟨rfl, readableShape_commandSlots p _ _⟩

theorem EncodedForm.wfPoll : EncodedForm.Statement .wfPoll :=
  fun p => ⟨rfl, by simp [readableShape]⟩

theorem EncodedForm.wfResp (length : Nat) : EncodedForm.Statement (.wfResp length) :=
  fun p => ⟨rfl, by simp [readableShape]⟩

theorem EncodedForm.wfChangeState (target : OpState) : EncodedForm.Statement (.wfChangeState target) :=
  fun p => ⟨rfl, readableShape_commandSlots p _ _⟩

theorem EncodedForm.wfFifoReset : EncodedForm.Statement .wfFifoReset :=
  fun p => ⟨rfl, readableShape_commandSlots p _ _⟩

theorem EncodedForm.wfIntStatus : EncodedForm.Statement .wfIntStatus :=
  fun p => ⟨rfl, readableShape_commandSlots p _ _⟩

theorem EncodedForm.wfWriteTxFifo (data : List Byte) : EncodedForm.Statement (.wfWriteTxFifo data) :=
  fun p => ⟨rfl, readableShape_commandSlots p _ _⟩

theorem EncodedForm.wfStartTx (total : BitVec 16) : EncodedForm.Statement (.wfStartTx total) :=
  fun p => ⟨rfl, readableShape_commandSlots p _ _⟩

theorem EncodedForm.wfReqState : EncodedForm.Statement .wfReqState :=
  fun p => ⟨rfl, readableShape_commandSlots p _ _⟩

end Sys2Proof.Laws
end

