-- ==== Sys2Proof/Tests/Slice0.lean ====
section
/-! SUPPORT. Tests: the checks of WellFormed, decoding from words written out from the spec, one step of each
instruction against the vectors of 95_test_vectors.md (named V<n>), and a witness for the hypotheses of every
obligation. Byte-level expectations use the default wire constants, as the vectors do. -/

namespace Sys2Proof.Tests

open Sys2Proof.Machine

/-! ## Helpers -/

/-- The parameter groups of V31. -/
def cp0 : ChipParameters := ⟨0, 0, 0, 0, 0, 27000000⟩
def rp0 : RadioParameters := ⟨434000000, 100, 0, 20, .fskDirect, 0, 5000⟩

/-- The default constants with two polls to a wait and no power-up or set-up frames for `cp0`. -/
def small : Params :=
  { Params.reference with
    ctsLimit := 2
    powerupTable := [(cp0, [])]
    setupTable := [((cp0, rp0), []), ((cp0, { rp0 with carrierHz := 0 }), [])] }

/-- As `small`, with one set-up frame. -/
def oneFrame : Params := { small with setupTable := [((cp0, rp0), [⟨0x13#8, [0x00#8]⟩])] }

/-- A configured machine at 434 MHz, 5000 Hz deviation, whose chip answers these bytes. -/
def up (rx : List Byte) : State :=
  { State.reset with
    cfg := small
    lc := .idle
    carrier := some 434000000
    deviation := some 5000
    rx := rx }

/-- The machine after reset, with `small` and these answers. -/
def down (rx : List Byte) : State := { State.reset with cfg := small, rx := rx }

/-- Whether the instruction takes a next state that passes a check. -/
def runs (i : Instr) (s : State) (check : State → Bool) : Bool :=
  match exec i s with
  | .next t => check t
  | _ => false

/-- A command frame, and a response frame. -/
def wr (bs : List Byte) : List Event := .selL :: (bs.map .tx).concat .selH
def rd (bs : List Byte) : List Event := .selL :: (bs.map .rx).concat .selH
/-- A poll that reads the ready byte, and an offset frame with its low byte. -/
def ready : List Event := [.selL, .tx 0x44#8, .rx 0xFF#8, .selH]
def notReady : List Event := [.selL, .tx 0x44#8, .rx 0x00#8, .selH]
def offsetFrame (lo : Byte) : List Event :=
  wr [0x11#8, 0x20#8, 0x02#8, 0x0D#8, 0x00#8, lo]
def symbol (lo : Byte) : List Event := ready ++ offsetFrame lo ++ [.dlyMs 10]
def stateFrame (code : Byte) : List Event := wr [0x34#8, code]
def query (code : Byte) : List Event :=
  ready ++ wr [0x33#8] ++ ready ++ rd [code, 0x00#8]
def queryBytes (code : Byte) : List Byte := [0xFF#8, 0xFF#8, code, 0x00#8]

/-! ## WellFormed -/

theorem test_wellFormed_no_value_refused : (Instr.wfSetProperty 0x20#8 0x0D#8 []).wellFormed = false := by decide
theorem test_wellFormed_seven_values_refused :
    (Instr.wfSetProperty 0x20#8 0x0D#8 (List.replicate 7 0#8)).wellFormed = false := by decide
theorem test_wellFormed_six_values : (Instr.wfSetProperty 0x20#8 0x0D#8 (List.replicate 6 0#8)).wellFormed = true := by
  decide
theorem test_wellFormed_long_fill_refused : (Instr.wfWriteTxFifo (List.replicate 65 0#8)).wellFormed = false := by
  decide
theorem test_wellFormed_full_fill : (Instr.wfWriteTxFifo (List.replicate 64 0#8)).wellFormed = true := by decide

/-! ## Parameters -/

/-- The default constants meet the constraints of 30_encoding.md R88 and R94. -/
theorem test_reference_legal : Params.reference.Legal ∧ Params.reference.OpcodesDistinct := by decide

/-- The codes of the kinds, in the order of 60_exceptions.md R181. -/
theorem test_kind_codes :
    [Kind.ok, .busTimeout, .invalidParameter, .powerUpFailure, .txTimeout, .rangeFault, .unwritten, .refused].map
      Kind.code = [0, 1, 2, 3, 4, 5, 6, 7] := by decide

/-! ## Decoding: every operation code of 30_encoding.md R77, in binary -/

theorem test_decode_configure :
    decodeTableWord 8 0b00000001 = some (.configure ⟨0, 0, 0, 0, 0, 0⟩ ⟨0, 0, 0, 0, .cw, 0, 0⟩) := by decide
theorem test_decode_setPower : decodeTableWord 8 0b00000010 = some (.setPower 0) := by decide
theorem test_decode_readContext : decodeTableWord 8 0b00000011 = some (.readContext .refclk) := by decide
theorem test_decode_sendCommand : decodeTableWord 8 0b00010000 = some (.sendCommand 0 []) := by decide
theorem test_decode_waitCts : decodeTableWord 8 0b00010001 = some (.waitCts 0) := by decide
theorem test_decode_readResponse : decodeTableWord 8 0b00010010 = some (.readResponse 0 0) := by decide
theorem test_decode_setState : decodeTableWord 8 0b00100000 = some (.setState .sleep) := by decide
theorem test_decode_enableTx : decodeTableWord 8 0b00100001 = some .enableTx := by decide
theorem test_decode_inhibitTx : decodeTableWord 8 0b00100010 = some .inhibitTx := by decide
theorem test_decode_disableTx : decodeTableWord 8 0b00100011 = some .disableTx := by decide
theorem test_decode_selectOutdiv : decodeTableWord 8 0b00110000 = some (.selectOutdiv 0) := by decide
theorem test_decode_selectBand : decodeTableWord 8 0b00110001 = some (.selectBand 0) := by decide
theorem test_decode_setTxFrequency : decodeTableWord 8 0b00110010 = some (.setTxFrequency 0) := by decide
theorem test_decode_calcDeviation : decodeTableWord 8 0b00110011 = some (.calcDeviation 0) := by decide
theorem test_decode_setDeviation : decodeTableWord 8 0b00110100 = some (.setDeviation 0) := by decide
theorem test_decode_setReferenceClock : decodeTableWord 8 0b00110101 = some (.setReferenceClock 0) := by decide
theorem test_decode_setFrequencyOffset : decodeTableWord 8 0b00110110 = some (.setFrequencyOffset 0) := by decide
theorem test_decode_checkClearUnderflow : decodeTableWord 8 0b01000000 = some .checkClearUnderflow := by decide
theorem test_decode_clearFifo : decodeTableWord 8 0b01000001 = some .clearFifo := by decide
theorem test_decode_startTx : decodeTableWord 8 0b01000010 = some (.startTx []) := by decide
theorem test_decode_waitTxComplete : decodeTableWord 8 0b01000011 = some (.waitTxComplete 0) := by decide
theorem test_decode_requestDeviceState : decodeTableWord 8 0b01000100 = some .requestDeviceState := by decide
theorem test_decode_fsk4Write : decodeTableWord 8 0b01010000 = some (.fsk4Write []) := by decide
theorem test_decode_fsk4WriteByte : decodeTableWord 8 0b01010001 = some (.fsk4WriteByte 0) := by decide
theorem test_decode_fsk4Preamble : decodeTableWord 8 0b01010010 = some (.fsk4Preamble 0) := by decide
theorem test_decode_fsk4Idle : decodeTableWord 8 0b01010011 = some .fsk4Idle := by decide
theorem test_decode_cwMark : decodeTableWord 8 0b01010100 = some (.cwMark 0) := by decide
theorem test_decode_cwSpace : decodeTableWord 8 0b01010101 = some (.cwSpace 0) := by decide
theorem test_decode_reserved : [0x00, 0x04, 0x24, 0x37, 0x45, 0x56, 0xFF].map (decodeTableWord 8) =
    [none, none, none, none, none, none, none] := by decide
/-- P1's `ARG0 = 0x19DE5080` in the bits above OP (log entry 25). -/
theorem test_decode_arg0 : decodeTableWord 40 0x19DE508030 = some (.selectOutdiv 434000000) := by decide

/-! ## Decoding: every wire frame of 30_encoding.md R79 to R87, byte by byte -/

theorem test_decode_wfSetProperty :
    decode Params.reference (.wire [.out 0x11#8, .out 0x20#8, .out 0x03#8, .out 0x0A#8, .out 0x00#8, .out 0x01#8,
      .out 0x93#8]) = .ok (.wfSetProperty 0x20#8 0x0A#8 [0x00#8, 0x01#8, 0x93#8]) := by decide
theorem test_decode_wfPoll : decode Params.reference (.wire [.out 0x44#8, .inn]) = .ok .wfPoll := by decide
theorem test_decode_wfResp : decode Params.reference (.wire [.inn, .inn]) = .ok (.wfResp 2) := by decide
theorem test_decode_wfChangeState :
    decode Params.reference (.wire [.out 0x34#8, .out 0x05#8]) = .ok (.wfChangeState .txTune) := by decide
theorem test_decode_wfFifoReset :
    decode Params.reference (.wire [.out 0x15#8, .out 0x01#8]) = .ok .wfFifoReset := by decide
theorem test_decode_wfIntStatus :
    decode Params.reference (.wire [.out 0x20#8, .out 0x00#8, .out 0x00#8, .out 0x00#8]) = .ok .wfIntStatus := by
  decide
theorem test_decode_wfWriteTxFifo :
    decode Params.reference (.wire [.out 0x66#8, .out 0xAA#8, .out 0x55#8]) = .ok (.wfWriteTxFifo [0xAA#8, 0x55#8]) := by
  decide
theorem test_decode_wfStartTx :
    decode Params.reference (.wire [.out 0x31#8, .out 0x00#8, .out 0x10#8, .out 0x01#8, .out 0x2C#8]) =
      .ok (.wfStartTx 300#16) := by decide
theorem test_decode_wfReqState : decode Params.reference (.wire [.out 0x33#8]) = .ok .wfReqState := by decide
/-- A count byte that is not the number of values; a state code that is none of the six. -/
theorem test_decode_bad_frames :
    decode Params.reference (.wire [.out 0x11#8, .out 0x20#8, .out 0x02#8, .out 0x0D#8, .out 0x00#8]) =
      .error (.badPayload 0x11#8) ∧
    decode Params.reference (.wire [.out 0x34#8, .out 0x06#8]) = .error (.badPayload 0x34#8) := by decide

/-! ## One step of each instruction -/

/-- V31. -/
theorem test_configure_trace :
    runs (.configure cp0 rp0) (down (List.replicate 4 0xFF#8)) (fun t => t.err == .ok && t.lc == .idle &&
      t.carrier == some 434000000 && t.deviation == some 5000 && t.trace.take 5 == .sdn .low :: ready &&
      t.trace.length == 45) = true := by decide
/-- V31: the handshake times out. -/
theorem test_configure_powerUpFailure :
    runs (.configure cp0 rp0) (down [0x00#8, 0x00#8]) (fun t => t.err == .powerUpFailure &&
      t.lc == .uninitialized && t.cp == cp0 && t.rp == rp0 && t.carrier == none && t.deviation == none &&
      t.trace == .sdn .low :: notReady ++ notReady) = true := by decide
/-- V31. -/
theorem test_setPower_max :
    runs (.setPower 127) (up [0xFF#8]) (fun t => t.trace ==
      ready ++ wr [0x11#8, 0x22#8, 0x01#8, 0x01#8, 0x7F#8]) = true := by decide
theorem test_setPower_range :
    runs (.setPower 128) (up []) (fun t => t.err == .rangeFault && t.trace == []) = true := by decide
/-- V19. -/
theorem test_readContext :
    runs (.readContext .carrier) (up []) (fun t => t.err == .ok && t.ret == 434000000) = true ∧
    runs (.readContext .carrier) (down []) (fun t => t.err == .unwritten) = true := by decide
/-- V22. -/
theorem test_sendCommand :
    runs (.sendCommand 0x66 [0xAA#8, 0x55#8]) (up [])
      (fun t => t.trace == wr [0x66#8, 0xAA#8, 0x55#8]) = true := by decide
theorem test_sendCommand_range :
    runs (.sendCommand 0x100 []) (up []) (fun t => t.err == .rangeFault && t.trace == []) = true := by decide
/-- V22. -/
theorem test_waitCts_last_poll :
    runs (.waitCts 2) (up [0x00#8, 0xFF#8]) (fun t => t.err == .ok && t.trace == notReady ++ ready) = true := by decide
theorem test_waitCts_timeout :
    runs (.waitCts 3) (up [0x00#8, 0xFE#8, 0x7F#8]) (fun t => t.err == .busTimeout && t.lc == .uninitialized &&
      t.trace.length == 12) = true := by decide
/-- V23. -/
theorem test_readResponse :
    runs (.readResponse 2 65535) (up [0xFF#8, 0x07#8, 0x00#8]) (fun t => t.resp == [0x07#8, 0x00#8] &&
      t.trace == ready ++ rd [0x07#8, 0x00#8]) = true := by decide
/-- V24. -/
theorem test_setState_txTune :
    runs (.setState .txTune) (up [0xFF#8]) (fun t => t.lc == .idle && t.trace == ready ++ stateFrame 0x05#8) = true := by
  decide
theorem test_setState_transmitting :
    runs (.setState .transmitting) (up [0xFF#8])
      (fun t => t.lc == .transmitting && t.trace == ready ++ stateFrame 0x07#8) = true := by decide
theorem test_enableTx :
    runs .enableTx (up [0xFF#8]) (fun t => t.lc == .transmitting && t.trace == ready ++ stateFrame 0x07#8) = true := by
  decide
theorem test_inhibitTx :
    runs .inhibitTx (up [0xFF#8]) (fun t => t.lc == .idle && t.trace == ready ++ stateFrame 0x03#8) = true := by decide
theorem test_disableTx :
    runs .disableTx (up [0xFF#8]) (fun t => t.lc == .idle && t.trace == ready ++ stateFrame 0x01#8) = true := by decide
/-- V10. -/
theorem test_selectOutdiv_edge :
    runs (.selectOutdiv 176999999) (down []) (fun t => t.ret == 24) = true ∧
    runs (.selectOutdiv 177000000) (down []) (fun t => t.ret == 16) = true := by decide
theorem test_selectBand_edge :
    runs (.selectBand 704999999) (down []) (fun t => t.ret == 1) = true ∧
    runs (.selectBand 705000000) (down []) (fun t => t.ret == 0) = true := by decide
/-- V16. -/
theorem test_setTxFrequency_bytes :
    runs (.setTxFrequency 434000000) (up (List.replicate 3 0xFF#8)) (fun t => t.err == .ok &&
      t.trace == ready ++ wr [0x11#8, 0x20#8, 0x01#8, 0x51#8, 0x0A#8] ++
        ready ++ wr [0x11#8, 0x40#8, 0x06#8, 0x00#8, 0x41#8, 0x0E#8, 0x27#8, 0x62#8, 0x00#8, 0x02#8] ++
        ready ++ wr [0x11#8, 0x20#8, 0x03#8, 0x0A#8, 0x00#8, 0x01#8, 0x93#8]) =
      true := by decide
/-- V12. -/
theorem test_setTxFrequency_range :
    runs (.setTxFrequency 2166665) (up []) (fun t => t.err == .rangeFault && t.trace == []) = true ∧
    runs (.setTxFrequency 3341000000) (up []) (fun t => t.err == .rangeFault) = true := by decide
/-- V11. -/
theorem test_pllCalc_values :
    pllCalc 3340999999 26000000 = ⟨4, 0, 13000000, 255, 1048575⟩ ∧
    pllCalc 434000000 29999999 = ⟨8, 2, 7499999, 56, 978674⟩ := by decide
/-- V14. -/
theorem test_calcDeviation :
    runs (.calcDeviation 207999999) (up []) (fun t => t.ret == 16777215 && t.trace == []) = true ∧
    runs (.calcDeviation 12) (up []) (fun t => t.ret == 0) = true := by decide
/-- V15. -/
theorem test_setDeviation :
    runs (.setDeviation 207999999) (up [0xFF#8]) (fun t => t.deviation == some 207999999 && t.trace ==
      ready ++ wr [0x11#8, 0x20#8, 0x03#8, 0x0A#8, 0xFF#8, 0xFF#8, 0xFF#8]) =
      true := by decide
theorem test_setDeviation_timeout :
    runs (.setDeviation 99) (up [0x00#8, 0x00#8]) (fun t => t.err == .busTimeout && t.deviation == some 99 &&
      t.lc == .uninitialized && t.trace == notReady ++ notReady) = true := by decide
/-- V21. -/
theorem test_setReferenceClock :
    runs (.setReferenceClock 26000000) (down []) (fun t => t.err == .invalidParameter && t.refclk == 26000000) = true ∧
    runs (.setReferenceClock 29999999) (down []) (fun t => t.err == .ok && t.refclk == 29999999) = true := by decide
/-- V18. -/
theorem test_setFrequencyOffset :
    runs (.setFrequencyOffset 0x1234) (up [0xFF#8]) (fun t => t.trace == ready ++ wr [0x11#8, 0x20#8, 0x02#8, 0x0D#8, 0x12#8, 0x34#8]) = true ∧
    runs (.setFrequencyOffset 65536) (up []) (fun t => t.err == .rangeFault && t.trace == []) = true := by decide
/-- V25. -/
theorem test_checkClearUnderflow_set :
    runs .checkClearUnderflow (up [0xFF#8, 0xFF#8, 0, 0, 0, 0, 0, 0, 0x20#8]) (fun t => t.err == .ok && t.ret == 1 &&
      t.uf && t.trace == ready ++ wr [0x20#8, 0x00#8, 0x00#8, 0x00#8] ++ ready ++
        rd [0, 0, 0, 0, 0, 0, 0x20#8]) = true := by decide
theorem test_checkClearUnderflow_clear :
    runs .checkClearUnderflow { up ([0xFF#8, 0xFF#8] ++ List.replicate 6 0xFF#8 ++ [0xDF#8]) with uf := true }
      (fun t => t.ret == 0 && !t.uf) = true := by decide
/-- V26: the last two frames of CLEAR_FIFO. -/
theorem test_clearFifo :
    runs .clearFifo (up ([0xFF#8, 0xFF#8] ++ List.replicate 7 0#8 ++ [0xFF#8])) (fun t => t.err == .ok &&
      t.trace.drop 23 == ready ++ wr [0x15#8, 0x01#8]) = true := by decide
/-- V26: the two last frames for a buffer of 65 bytes, after the FIFO reset. -/
theorem test_startTx_65 :
    runs (.startTx (List.replicate 65 0xB0#8))
      (up ([0xFF#8, 0xFF#8] ++ List.replicate 7 0#8 ++ [0xFF#8, 0xFF#8, 0xFF#8])) (fun t => t.ret == 64 &&
        t.lc == .transmitting && t.trace.drop 31 == ready ++ wr (0x66#8 :: List.replicate 64 0xB0#8) ++ ready ++
          wr [0x31#8, 0x00#8, 0x10#8, 0x00#8, 0x41#8]) = true := by decide +kernel
/-- V27, first row. -/
theorem test_waitTxComplete_timeout :
    runs (.waitTxComplete 2) (up (queryBytes 0x07#8 ++ queryBytes 0x07#8 ++ [0xFF#8])) (fun t =>
      t.err == .txTimeout && t.lc == .idle && t.trace == query 0x07#8 ++ [.dlyMs 1] ++ query 0x07#8 ++ [.dlyMs 1] ++
        ready ++ stateFrame 0x01#8) = true := by decide
/-- V27, second and fifth rows. -/
theorem test_waitTxComplete_done :
    runs (.waitTxComplete 5) (up (queryBytes 0x07#8 ++ queryBytes 0x05#8 ++ queryBytes 0x03#8)) (fun t =>
      t.err == .ok && t.lc == .idle &&
      t.trace == query 0x07#8 ++ [.dlyMs 1] ++ query 0x05#8 ++ [.dlyMs 1] ++ query 0x03#8) = true ∧
    runs (.waitTxComplete 1) (up (queryBytes 0x13#8)) (fun t => t.err == .ok) = true := by decide
/-- 43_fifo_tx_engine.md R143, its example. -/
theorem test_requestDeviceState :
    runs .requestDeviceState (up (queryBytes 0x13#8)) (fun t => t.ret == 3 && t.trace == query 0x13#8) = true := by
  decide
/-- 44_modulation_encoder.md R153, its example. -/
theorem test_fsk4Write :
    runs (.fsk4Write [0x1B#8, 0xE4#8]) (up (List.replicate 8 0xFF#8)) (fun t => t.err == .ok && t.trace ==
      symbol 0x00#8 ++ symbol 0x16#8 ++ symbol 0x2C#8 ++ symbol 0x42#8 ++
      symbol 0x42#8 ++ symbol 0x2C#8 ++ symbol 0x16#8 ++ symbol 0x00#8) = true := by decide +kernel
theorem test_fsk4Write_empty :
    runs (.fsk4Write []) (up []) (fun t => t.err == .ok && t.trace == []) = true := by decide
/-- V28. -/
theorem test_fsk4WriteByte :
    runs (.fsk4WriteByte 0x48) (up (List.replicate 4 0xFF#8)) (fun t =>
      t.trace == symbol 0x16#8 ++ symbol 0x00#8 ++ symbol 0x2C#8 ++ symbol 0x00#8) = true := by decide
theorem test_fsk4WriteByte_timeout :
    runs (.fsk4WriteByte 0xFF) (up [0xFF#8, 0xFF#8, 0x00#8, 0x00#8]) (fun t => t.err == .busTimeout &&
      t.lc == .uninitialized && t.trace == symbol 0x42#8 ++ symbol 0x42#8 ++ notReady ++ notReady) = true := by decide
theorem test_fsk4Preamble :
    runs (.fsk4Preamble 1) (up (List.replicate 4 0xFF#8)) (fun t =>
      t.trace == symbol 0x00#8 ++ symbol 0x16#8 ++ symbol 0x2C#8 ++ symbol 0x42#8) = true := by decide
theorem test_fsk4Idle :
    runs .fsk4Idle (up [0xFF#8]) (fun t => t.err == .ok && t.trace == ready ++ offsetFrame 0x00#8) = true := by decide
/-- V29, `WPM = 20`. -/
theorem test_cwMark :
    runs (.cwMark 3) (up [0xFF#8, 0xFF#8]) (fun t => t.lc == .idle &&
      t.trace == ready ++ stateFrame 0x07#8 ++ [.dlyMs 180] ++ ready ++ stateFrame 0x03#8) = true := by decide
theorem test_cwSpace : runs (.cwSpace 7) (up []) (fun t => t.trace == [.dlyMs 420]) = true := by decide
/-- V29: `WPM = 13`. -/
theorem test_dotMs : dotMs { small with wpm := 13 } = 92 := by decide
/-- Frames of V15, V22, V23, V24, V25, V26 and V27, each run by itself. -/
theorem test_wfSetProperty :
    runs (.wfSetProperty 0x20#8 0x0A#8 [0x00#8, 0x01#8, 0x93#8]) (up []) (fun t => t.trace ==
      wr [0x11#8, 0x20#8, 0x03#8, 0x0A#8, 0x00#8, 0x01#8, 0x93#8]) = true := by
  decide
theorem test_wfPoll : runs .wfPoll (up [0xFF#8]) (fun t => t.trace == ready && t.rx == []) = true := by decide
theorem test_wfResp :
    runs (.wfResp 2) (up [0x07#8, 0x00#8]) (fun t => t.resp == [0x07#8, 0x00#8] &&
      t.trace == rd [0x07#8, 0x00#8]) = true := by decide
theorem test_wfChangeState :
    runs (.wfChangeState .ready2) (up []) (fun t => t.trace == stateFrame 0x04#8 && t.lc == .idle) = true := by decide
theorem test_wfFifoReset :
    runs .wfFifoReset (up []) (fun t => t.trace == wr [0x15#8, 0x01#8]) = true := by decide
theorem test_wfIntStatus :
    runs .wfIntStatus (up (0xFF#8 :: List.replicate 7 0#8)) (fun t => t.resp == List.replicate 7 0#8 && t.trace ==
      wr [0x20#8, 0x00#8, 0x00#8, 0x00#8] ++ ready ++ rd (List.replicate 7 0#8)) = true := by decide
theorem test_wfWriteTxFifo :
    runs (.wfWriteTxFifo [0xAA#8]) (up []) (fun t => t.trace == wr [0x66#8, 0xAA#8]) = true := by
  decide
theorem test_wfStartTx :
    runs (.wfStartTx 300#16) (up []) (fun t => t.trace ==
      wr [0x31#8, 0x00#8, 0x10#8, 0x01#8, 0x2C#8]) = true := by decide
theorem test_wfReqState :
    runs .wfReqState (up [0xFF#8, 0x07#8, 0x00#8]) (fun t => t.resp == [0x07#8, 0x00#8] && t.trace ==
      wr [0x33#8] ++ ready ++ rd [0x07#8, 0x00#8]) = true := by decide
/-- V20's priority: refused, although the operand is out of range. -/
theorem test_refused_first :
    runs (.setTxFrequency 0) (down []) (fun t => t.err == .refused && t.trace == []) = true := by decide

/-! ## Witnesses: states and operands that meet the hypotheses of each obligation -/

/-- A state of a run: configured at 434 MHz with one frame sent, holding the request `SET_REFERENCE_CLOCK(27 MHz)`. -/
def running : State :=
  { up [] with
    trace := [.sdn .low, .selL, .tx 0x44#8, .rx 0xFF#8, .selH]
    pending := [{ Request.bare 0x35#8 with arg0 := 27000000 }] }

/-- As `up`, with one set-up frame for `cp0` and `rp0`. -/
def upOne (rx : List Byte) : State := { up rx with cfg := oneFrame }

/-- A query that sees transmitting, and one that sees ready. -/
def busyQuery : Query := ⟨[], [], [0x07#8, 0x00#8]⟩
def readyQuery : Query := ⟨[0x00#8], [], [0x13#8, 0x00#8]⟩

theorem witness_WaitsWithoutARequest : State.reset.pending = [] := rfl
theorem witness_StepRunsTheDecodedRequest :
    running.pending = { Request.bare 0x35#8 with arg0 := 27000000 } :: [] ∧
    decode running.cfg (.host { Request.bare 0x35#8 with arg0 := 27000000 }) = .ok (.setReferenceClock 27000000) := by
  decide
theorem witness_OperationCodesSelectTheirOperation :
    (∀ c ∈ operationCodes, (Request.bare c).op = c) ∧ (Request.bare 0x56#8).op ∉ operationCodes ∧
    (Request.bare 0x00#8).op ∉ operationCodes ∧ operationCodes.length = 28 := by decide
theorem witness_ReservedCodeIsRefused :
    { up [] with pending := [Request.bare 0x56#8] }.pending = Request.bare 0x56#8 :: [] ∧
    (Request.bare 0x56#8).op ∉ operationCodes := by decide
theorem witness_DecodingAnEncodedInstructionGivesItBack :
    Params.reference.OpcodesDistinct ∧ (OpState.all.map Params.reference.stateCode).Nodup ∧
    ∀ i ∈ [Instr.wfSetProperty 0#8 0#8 [0#8], .wfSetProperty 0#8 0#8 (List.replicate 6 0#8), .wfWriteTxFifo [],
      .wfWriteTxFifo (List.replicate 64 0#8), .configure cp0 rp0, .wfResp 0], i.wellFormed = true := by decide
theorem witness_DecodedFrameEncodesBack :
    decode Params.reference (.wire [.out 0x34#8, .out 0x03#8]) = .ok (.wfChangeState .ready) := by decide
theorem witness_BandTableRows :
    176999999 < 177000000 ∧ (177000000 ≤ 177000000 ∧ 238999999 < 239000000) ∧
    (239000000 ≤ 239000000 ∧ 352999999 < 353000000) ∧ (353000000 ≤ 353000000 ∧ 524999999 < 525000000) ∧
    (525000000 ≤ 525000000 ∧ 704999999 < 705000000) ∧ 705000000 ≤ 705000000 := by decide
theorem witness_PllValuesAreTheExactQuotients : 0 < (pllCalc 434000000 26000000).fPfd := by decide
theorem witness_PllPairEncodesTheRatio :
    0 < (pllCalc 429000000 26000000).fPfd ∧ 429000000 % (pllCalc 429000000 26000000).fPfd = 0 := by decide
theorem witness_SynthesizerWidths :
    (26000000 ≤ 26000000 ∧ 26000000 ≤ 29999999) ∧ 26000000 ≤ 29999999 ∧ 4294967295 < 2 ^ 32 := by decide
theorem witness_DeviationIsTheExactQuotient : 0 < 26000000 ∧ 4999 ≤ 5000 ∧ 4 ≤ 24 := by decide

theorem tunable_434 : Tunable 434000000 26000000 5000 := by unfold Tunable; decide
theorem tunable_ends : Tunable 2166666 26000000 5000 ∧ Tunable 3340999999 26000000 5000 := by unfold Tunable; decide
theorem not_tunable_ends :
    ¬ Tunable 2166665 26000000 5000 ∧ ¬ Tunable 3341000000 26000000 5000 ∧ ¬ Tunable 0 26000000 5000 := by
  unfold Tunable; decide

/-- Without a set-up frame, and with one. -/
theorem witness_ConfigureBringsUpTheChip :
    (rp0.power.toNat ≤ 127 ∧ Tunable rp0.carrierHz.toNat (down []).refclk.toNat rp0.deviationHz.toNat ∧
      AnsweredWithin small.ctsLimit [0x00#8] ∧ ([] : List (List Byte)).length = (setupFrames small cp0 rp0).length ∧
      (∀ w ∈ ([] : List (List Byte)), AnsweredWithin small.ctsLimit w) ∧
      [([] : List Byte), [], []].length = 3 ∧ (∀ w ∈ [[], [], []], AnsweredWithin small.ctsLimit w) ∧
      (down [0x00#8, 0xFF#8, 0xFF#8, 0xFF#8, 0xFF#8]).rx = answers ([0x00#8] :: [] ++ [[], [], []]) ++ []) ∧
    ([[0x00#8]].length = (setupFrames oneFrame cp0 rp0).length ∧
      (∀ w ∈ [[0x00#8]], AnsweredWithin oneFrame.ctsLimit w) ∧
      (upOne [0xFF#8, 0x00#8, 0xFF#8, 0xFF#8, 0xFF#8, 0xFF#8]).rx = answers ([] :: [[0x00#8]] ++ [[], [], []]) ++ []) :=
  ⟨⟨by decide, tunable_434, by decide⟩, by decide⟩
theorem witness_ConfigureStopsWhereItsRuleSays_power :
    127 < { rp0 with power := 128 }.power.toNat ∧ { rp0 with power := 127 }.power.toNat ≤ 127 := by decide
theorem witness_ConfigureStopsWhereItsRuleSays_handshake :
    rp0.power.toNat ≤ 127 ∧ NeverAnswered small.ctsLimit [0x00#8, 0xFE#8] ∧
    (down [0x00#8, 0xFE#8]).rx = [0x00#8, 0xFE#8] ++ [] := by decide
theorem witness_ConfigureStopsWhereItsRuleSays_setup :
    rp0.power.toNat ≤ 127 ∧ AnsweredWithin oneFrame.ctsLimit [] ∧
    ([] : List (List Byte)).length < (setupFrames oneFrame cp0 rp0).length ∧
    NeverAnswered oneFrame.ctsLimit [0x00#8, 0x00#8] ∧
    (upOne [0xFF#8, 0x00#8, 0x00#8]).rx = answers ([] :: []) ++ ([0x00#8, 0x00#8] ++ []) := by decide
theorem witness_ConfigureStopsWhereItsRuleSays_range :
    { rp0 with carrierHz := 0 }.power.toNat ≤ 127 ∧ AnsweredWithin small.ctsLimit [] ∧
    ([] : List (List Byte)).length = (setupFrames small cp0 { rp0 with carrierHz := 0 }).length ∧
    ¬ Tunable { rp0 with carrierHz := 0 }.carrierHz.toNat (down [0xFF#8]).refclk.toNat rp0.deviationHz.toNat ∧
    (down [0xFF#8]).rx = answers ([] :: []) ++ [] :=
  ⟨by decide, by decide, by decide, not_tunable_ends.2.2, by decide⟩
theorem witness_ConfigureStopsWhereItsRuleSays_tuning :
    Tunable rp0.carrierHz.toNat (down []).refclk.toNat rp0.deviationHz.toNat ∧
    (∀ vs ∈ [[], [[]], [[], []]], vs.length < 3 ∧ (∀ w ∈ vs, AnsweredWithin small.ctsLimit w) ∧
      (down (answers ([] :: [] ++ vs) ++ [0x00#8, 0x00#8])).rx =
        answers ([] :: [] ++ vs) ++ ([0x00#8, 0x00#8] ++ [])) ∧
    NeverAnswered small.ctsLimit [0x00#8, 0x00#8] :=
  ⟨tunable_434, by decide, by decide⟩

/-- The waits of an operation with one wait, answered at once, at the last poll, and never: SendsOneFrame, the first
waits of the operations with several, CW_MARK. -/
theorem witness_oneWait :
    (up [0xFF#8]).lc ≠ .uninitialized ∧
    (AnsweredWithin small.ctsLimit [] ∧ (up [0xFF#8]).rx = [] ++ 0xFF#8 :: []) ∧
    (AnsweredWithin small.ctsLimit [0xFE#8] ∧ (up [0xFE#8, 0xFF#8]).rx = [0xFE#8] ++ 0xFF#8 :: []) ∧
    (NeverAnswered small.ctsLimit [0x00#8, 0xFE#8] ∧ (up [0x00#8, 0xFE#8]).rx = [0x00#8, 0xFE#8] ++ []) ∧
    (up []).cfg.ctsLimit = small.ctsLimit ∧ (down []).lc = .uninitialized := by decide
/-- Two waits in a row: both answered, and the second never: the operations that read a response, CW_MARK. -/
theorem witness_twoWaits :
    (up []).lc ≠ .uninitialized ∧
    (∀ w ∈ [[], [0x00#8]], AnsweredWithin small.ctsLimit w) ∧ (up [0xFF#8, 0x00#8, 0xFF#8]).rx = answers [[], [0x00#8]] ++ [] ∧
    NeverAnswered small.ctsLimit [0x00#8, 0x00#8] ∧
    (up [0xFF#8, 0x00#8, 0x00#8]).rx = answers [[]] ++ ([0x00#8, 0x00#8] ++ []) := by decide

theorem witness_SetPowerWritesOneProperty :
    (up []).lc ≠ .uninitialized ∧ 127 < (128 : Word).toNat ∧ (127 : Word).toNat ≤ 127 := by decide
theorem witness_ReadContextReturnsTheRegister :
    (up []).carrier = some 434000000 ∧ (up []).deviation = some 5000 ∧ (down []).carrier = none ∧
    (down []).deviation = none := by decide
theorem witness_StoredCarrierReadsBack :
    ∃ t, exec (.setTxFrequency 434000000) (up [0xFF#8, 0xFF#8, 0xFF#8]) = .next t ∧ t.err = .ok := ⟨_, rfl, by decide⟩
theorem witness_SendCommandSendsItsFrame :
    (up []).lc ≠ .uninitialized ∧ 256 ≤ (256 : Word).toNat ∧ (255 : Word).toNat < 256 := by decide
theorem witness_WaitCtsPollsUpToItsLimit :
    (up []).lc ≠ .uninitialized ∧ 
    AnsweredWithin (2 : Word).toNat [0x00#8] ∧ (up [0x00#8, 0xFF#8]).rx = [0x00#8] ++ 0xFF#8 :: [] ∧
    NeverAnswered (2 : Word).toNat [0x00#8, 0xFE#8] ∧ (up [0x00#8, 0xFE#8]).rx = [0x00#8, 0xFE#8] ++ [] ∧
    NeverAnswered (0 : Word).toNat [] := by decide
theorem witness_ReadResponseStreamsItsBytes :
    (up []).lc ≠ .uninitialized ∧ 
    AnsweredWithin (1 : Word).toNat [] ∧ [0x07#8, 0x00#8].length = (2 : Word).toNat ∧
    (up [0xFF#8, 0x07#8, 0x00#8]).rx = [] ++ 0xFF#8 :: ([0x07#8, 0x00#8] ++ []) ∧
    ([] : List Byte).length = (0 : Word).toNat ∧ NeverAnswered (1 : Word).toNat [0x00#8] ∧
    (up [0x00#8]).rx = [0x00#8] ++ [] := by decide
theorem witness_StateOperationsSendTheirCode :
    Instr.setState .sleep = .setState .sleep ∧ (Instr.enableTx = .enableTx ∧ OpState.transmitting = .transmitting) := by
  decide
theorem witness_SetTxFrequencyTunesTheChip :
    (∀ w ∈ [[], [], []], AnsweredWithin small.ctsLimit w) ∧ NeverAnswered small.ctsLimit [0x00#8, 0x00#8] ∧
    (up []).lc ≠ .uninitialized ∧ { up [] with deviation := none }.deviation = none ∧ (up []).deviation = some 5000 ∧
    (∀ ws ∈ [[], [[]], [[], [0x00#8]]], ws.length < 3 ∧ (∀ w ∈ ws, AnsweredWithin small.ctsLimit w) ∧
      (up (answers ws ++ [0x00#8, 0x00#8])).rx = answers ws ++ ([0x00#8, 0x00#8] ++ [])) ∧
    (up [0xFF#8, 0xFF#8, 0xFF#8]).rx = answers [[], [], []] ++ [] ∧ (up []).refclk.toNat = 26000000 ∧
    [(2166665 : Word), 2166666, 3340999999, 3341000000].map (·.toNat) = [2166665, 2166666, 3340999999, 3341000000] := by
  decide
theorem witness_CalcDeviationReturnsTheValue :
    (down []).carrier = none ∧ (up []).carrier = some 434000000 ∧ 26000000 ≤ (up []).refclk.toNat := by decide
theorem witness_SetDeviationStoresAndSends :
    (up []).lc ≠ .uninitialized ∧ 
    { up [] with carrier := none }.carrier = none ∧ (up []).carrier = some 434000000 ∧
    devCalc (207999999 : Word).toNat (outdivOf (434000000 : Word).toNat) (up []).refclk.toNat < 2 ^ 24 ∧
    2 ^ 24 ≤ devCalc (208000000 : Word).toNat (outdivOf (434000000 : Word).toNat) (up []).refclk.toNat := by decide
theorem witness_SetReferenceClockChecksItsRange :
    (26000000 < (26000001 : Word).toNat ∧ (29999999 : Word).toNat < 30000000) ∧
    (26000000 : Word).toNat ≤ 26000000 ∧ 30000000 ≤ (30000000 : Word).toNat := by decide
theorem witness_SetFrequencyOffsetSendsTheOffset :
    (up []).lc ≠ .uninitialized ∧ 2 ^ 16 ≤ (65536 : Word).toNat ∧ (65535 : Word).toNat < 2 ^ 16 := by decide
/-- For CHECK_CLEAR_UNDERFLOW, CLEAR_FIFO and START_TX. -/
theorem witness_UnderflowReported :
    UnderflowReported small [0, 0, 0, 0, 0, 0, 0x20#8] ∧
    ¬ UnderflowReported small [0xFF#8, 0xFF#8, 0xFF#8, 0xFF#8, 0xFF#8, 0xFF#8, 0xDF#8] := by
  unfold UnderflowReported; decide
theorem witness_UnderflowCheckStoresTheTestedBit :
    (up []).lc ≠ .uninitialized ∧ (up []).cfg.ctsLimit = small.ctsLimit ∧ AnsweredWithin small.ctsLimit [] ∧
    NeverAnswered small.ctsLimit [0x00#8, 0x00#8] ∧
    (up ([0xFF#8, 0xFF#8] ++ List.replicate 7 0#8)).rx = answers [[], []] ++ (List.replicate 7 0#8 ++ []) ∧
    (List.replicate 7 0#8).length = 7 := by decide
theorem witness_ClearFifoChecksThenResets :
    (up []).lc ≠ .uninitialized ∧ (up []).cfg.ctsLimit = small.ctsLimit ∧ AnsweredWithin small.ctsLimit [] ∧
    NeverAnswered small.ctsLimit [0x00#8, 0x00#8] ∧
    (up ([0xFF#8, 0xFF#8] ++ List.replicate 7 0#8 ++ [0xFF#8])).rx =
      answers [[], []] ++ (List.replicate 7 0#8 ++ (answers [[]] ++ [])) ∧
    (up ([0xFF#8, 0xFF#8] ++ List.replicate 7 0#8 ++ [0x00#8, 0x00#8])).rx =
      answers [[], []] ++ (List.replicate 7 0#8 ++ ([0x00#8, 0x00#8] ++ [])) := by decide
theorem witness_StartTxLoadsAndStarts :
    (up []).lc ≠ .uninitialized ∧ (up []).cfg.ctsLimit = small.ctsLimit ∧ AnsweredWithin small.ctsLimit [] ∧
    NeverAnswered small.ctsLimit [0x00#8, 0x00#8] ∧
    (up ([0xFF#8, 0xFF#8] ++ List.replicate 7 0#8 ++ [0xFF#8, 0xFF#8, 0xFF#8])).rx =
      answers [[], []] ++ (List.replicate 7 0#8 ++ (answers [[], [], []] ++ [])) ∧
    (∀ ws ∈ [[], [[]], [[], []]],
      (up ([0xFF#8, 0xFF#8] ++ List.replicate 7 0#8 ++ answers ws ++ [0x00#8, 0x00#8])).rx =
        answers [[], []] ++ (List.replicate 7 0#8 ++ (answers ws ++ ([0x00#8, 0x00#8] ++ [])))) := by decide
theorem witness_StartTxLoadsAndStarts_length :
    65535 < (List.replicate 65536 0#8).length ∧ (List.replicate 65535 0#8).length ≤ 65535 := by
  simp only [List.length_replicate]; decide
theorem witness_DeviceStateQueryReturnsTheCode :
    (up []).lc ≠ .uninitialized ∧ (up []).cfg.ctsLimit = small.ctsLimit ∧ AnsweredWithin small.ctsLimit [] ∧
    NeverAnswered small.ctsLimit [0x00#8, 0x00#8] ∧
    readyQuery.Complete small ∧ (up readyQuery.bytes).rx = readyQuery.bytes ++ [] := by decide
theorem witness_WaitTxCompletePollsOncePerMillisecond_done :
    (up []).lc ≠ .uninitialized ∧ (up []).cfg.ctsLimit = small.ctsLimit ∧ AnsweredWithin small.ctsLimit [] ∧
    NeverAnswered small.ctsLimit [0x00#8, 0x00#8] ∧
    (∀ q ∈ [busyQuery], q.Complete small ∧ ¬ q.ReportsDone small) ∧ [busyQuery].length < (2 : Word).toNat ∧
    readyQuery.Complete small ∧ readyQuery.ReportsDone small ∧
    (up (busyQuery.bytes ++ readyQuery.bytes)).rx = [busyQuery].flatMap Query.bytes ++ (readyQuery.bytes ++ []) := by
  decide
theorem witness_WaitTxCompletePollsOncePerMillisecond_timeout :
    (up []).lc ≠ .uninitialized ∧ (up []).cfg.ctsLimit = small.ctsLimit ∧ AnsweredWithin small.ctsLimit [] ∧
    NeverAnswered small.ctsLimit [0x00#8, 0x00#8] ∧
    (∀ q ∈ [busyQuery], q.Complete small ∧ ¬ q.ReportsDone small) ∧ [busyQuery].length < (2 : Word).toNat ∧
    [busyQuery].length = (1 : Word).toNat ∧ ([] : List Query).length = (0 : Word).toNat ∧
    (up (busyQuery.bytes ++ [0xFF#8])).rx = [busyQuery].flatMap Query.bytes ++ (answers [[]] ++ []) ∧
    (up [0xFF#8]).rx = [].flatMap Query.bytes ++ (answers [[]] ++ []) := by decide
theorem witness_WaitTxCompletePollsOncePerMillisecond_wait :
    (up []).lc ≠ .uninitialized ∧ (up []).cfg.ctsLimit = small.ctsLimit ∧ AnsweredWithin small.ctsLimit [] ∧
    NeverAnswered small.ctsLimit [0x00#8, 0x00#8] ∧
    (∀ q ∈ [busyQuery], q.Complete small ∧ ¬ q.ReportsDone small) ∧ [busyQuery].length < (2 : Word).toNat ∧
    (up (busyQuery.bytes ++ [0x00#8, 0x00#8])).rx = [busyQuery].flatMap Query.bytes ++ ([0x00#8, 0x00#8] ++ []) ∧
    (up (busyQuery.bytes ++ [0xFF#8, 0x00#8, 0x00#8])).rx =
      [busyQuery].flatMap Query.bytes ++ (answers [[]] ++ ([0x00#8, 0x00#8] ++ [])) := by decide
theorem witness_WriteByteSendsFourHeldSymbols :
    (up []).lc ≠ .uninitialized ∧ 256 ≤ (256 : Word).toNat ∧ (255 : Word).toNat < 256 := by decide
/-- The symbols' waits for the 4FSK operations: all answered, and the second never. -/
theorem witness_SendsSymbols :
    (up []).lc ≠ .uninitialized ∧ (up []).cfg.ctsLimit = small.ctsLimit ∧ AnsweredWithin small.ctsLimit [] ∧
    NeverAnswered small.ctsLimit [0x00#8, 0x00#8] ∧
    [[], [], [0x00#8], []].length = [0#2, 1#2, 2#2, 3#2].length ∧
    (∀ w ∈ [[], [], [0x00#8], []], AnsweredWithin small.ctsLimit w) ∧
    (up [0xFF#8, 0xFF#8, 0x00#8, 0xFF#8, 0xFF#8]).rx = answers [[], [], [0x00#8], []] ++ [] ∧
    [([] : List Byte)].length < [0#2, 1#2, 2#2, 3#2].length ∧
    (up [0xFF#8, 0x00#8, 0x00#8]).rx = answers [[]] ++ ([0x00#8, 0x00#8] ++ []) := by decide
theorem witness_CommandFramesGoOutAsLaidOut :
    (1 ≤ [0#8].length ∧ (List.replicate 6 0#8).length ≤ 6) ∧ (List.replicate 64 0#8).length ≤ 64 := by decide
theorem witness_ReadingFramesReadTheirBytes :
    (up [0xFF#8]).rx = 0xFF#8 :: [] ∧ (up [0x07#8, 0x00#8]).rx = [0x07#8, 0x00#8] ++ [] := by decide
theorem witness_ExchangesReadTheirResponse :
    (up []).lc ≠ .uninitialized ∧ (up []).cfg.ctsLimit = small.ctsLimit ∧ AnsweredWithin small.ctsLimit [] ∧
    NeverAnswered small.ctsLimit [0x00#8, 0x00#8] ∧
    (up (0xFF#8 :: List.replicate 7 0#8)).rx = answers [[]] ++ (List.replicate 7 0#8 ++ []) ∧
    (List.replicate 7 0#8).length = 7 ∧
    (up [0xFF#8, 0x07#8, 0x00#8]).rx = answers [[]] ++ ([0x07#8, 0x00#8] ++ []) ∧
    [0x07#8, 0x00#8].length = ((up []).cfg.wRdsRespLen : Nat) := by decide
theorem witness_FramesOutOfShapeSendNothing :
    ([] : List Byte).length = 0 ∧ 6 < (List.replicate 7 0#8).length ∧ 64 < (List.replicate 65 0#8).length := by decide
theorem witness_EveryStepKeepsInv : RunInvariant running ∧ ∃ t, step running = .next t ∧ t.refclk = 27000000 :=
  ⟨⟨rfl, by decide, by decide, by decide, by decide, by decide, by decide, by decide, by decide, by decide, by decide⟩,
    _, rfl, by decide⟩
theorem witness_GatedOperationsAreRefused :
    gated .fsk4Idle = true ∧ (down []).lc = .uninitialized ∧
    ((Instr.readContext .carrier).isHostOp = true ∧ gated (.readContext .carrier) = false ∧
      ∃ t, exec (.readContext .carrier) (down []) = .next t) ∧
    ((up []).lc ≠ .uninitialized ∧ Instr.fsk4Idle.isHostOp = true ∧
      ∃ t, exec .fsk4Idle (up []) = .next t) := by
  refine ⟨by decide, by decide, ⟨by decide, by decide, _, rfl⟩, by decide, by decide, _, rfl⟩
/-- One run for each kind but OK. -/
theorem witness_KindsComeOnlyFromTheirOperations :
    runs (.setReferenceClock 0) (up []) (·.err == .invalidParameter) = true ∧
    runs (.configure cp0 rp0) (down [0x00#8, 0x00#8]) (·.err == .powerUpFailure) = true ∧
    runs (.waitTxComplete 0) (up [0xFF#8]) (·.err == .txTimeout) = true ∧
    runs (.setPower 128) (up []) (·.err == .rangeFault) = true ∧
    runs (.calcDeviation 0) (down []) (·.err == .unwritten) = true ∧
    runs .fsk4Idle (down []) (·.err == .refused) = true ∧
    runs .fsk4Idle (up [0x00#8, 0x00#8]) (·.err == .busTimeout) = true := by decide
theorem witness_TakingAFaultWritesErrAndLc : gated .fsk4Idle = true ∧ Kind.busTimeout ≠ .powerUpFailure := by decide
theorem witness_TimeoutsFollowAWholeBudgetOfPolls :
    ∃ t, exec .fsk4Idle (up [0x00#8, 0x00#8]) = .next t ∧ t.err = .busTimeout := ⟨_, rfl, by decide⟩
theorem witness_OnlyConfigureActsWhileDown :
    Instr.fsk4Idle.isHostOp = true ∧ (∀ cp rp, Instr.fsk4Idle ≠ .configure cp rp) ∧ (down []).lc = .uninitialized ∧
    ∃ t, exec .fsk4Idle (down []) = .next t :=
  ⟨by decide, fun _ _ h => (nomatch h), by decide, _, rfl⟩
/-- Each register is written by one of its writers. -/
theorem witness_RegistersChangeOnlyByTheirWriters :
    runs (.setReferenceClock 27000000) (up []) (·.refclk != 26000000) = true ∧
    runs (.configure cp0 rp0) (down (List.replicate 4 0xFF#8)) (fun t =>
      t.carrier != none && t.deviation != none && t.rp != (down []).rp) = true ∧
    runs (.configure cp0 rp0) { down (List.replicate 4 0xFF#8) with sdn := .high } (·.sdn != .high) = true ∧
    runs .checkClearUnderflow (up [0xFF#8, 0xFF#8, 0, 0, 0, 0, 0, 0, 0x20#8]) (·.uf != false) = true ∧
    runs .enableTx (up [0xFF#8]) (·.lc == .transmitting) = true ∧
    runs .inhibitTx { up [0xFF#8] with lc := .transmitting } (·.lc == .idle) = true ∧
    runs .enableTx (up [0x00#8, 0x00#8]) (·.lc == .uninitialized) = true ∧
    runs .wfPoll { up [0xFF#8] with nsel := .low } (·.nsel == .high) = true := by decide
theorem witness_EventsAreWholeFrames :
    (up [0xFF#8]).nsel = .high ∧ ∃ t, exec .fsk4Idle (up [0xFF#8]) = .next t := ⟨by decide, _, rfl⟩
theorem witness_CommandsFollowAReadyPoll :
    Instr.fsk4Idle.isHostOp = true ∧ (∀ c bs, Instr.fsk4Idle ≠ .sendCommand c bs) ∧
    (∀ cp rp, Instr.fsk4Idle ≠ .configure cp rp) ∧
    ∃ t, exec .fsk4Idle (up [0xFF#8]) = .next t ∧ t.trace = ready ++ offsetFrame 0x00#8 :=
  ⟨by decide, fun _ _ h => (nomatch h), fun _ _ h => (nomatch h), _, rfl, by decide⟩
theorem witness_CommandsFollowAReadyPoll_configure :
    (Instr.configure cp0 rp0).isHostOp = true ∧
    runs (.configure cp0 rp0) (down (List.replicate 4 0xFF#8)) (·.trace != []) = true ∧
    runs (.configure cp0 { rp0 with power := 128 }) (down []) (·.trace == []) = true := by decide
theorem witness_ModesSendOnlyTheirOwnFrames :
    runs .fsk4Idle (up [0xFF#8]) (fun t => cutFrames none t.trace != []) = true ∧
    runs (.cwMark 0) (up [0xFF#8, 0xFF#8]) (fun t => cutFrames none t.trace != []) = true := by decide
theorem witness_ModesIgnoreTheDriverContext : ∃ t, exec (.cwSpace 1) (up []) = .next t ∧ t.err = .ok := ⟨_, rfl, by decide⟩
theorem witness_EventCountsAreBounded :
    runs (.waitCts 1) (up [0x00#8]) (·.trace.length == 4) = true ∧
    runs (.fsk4Write [0x1B#8]) (up (List.replicate 4 0xFF#8)) (·.err == .ok) = true := by decide

end Sys2Proof.Tests
end

section
/-! # The state of the RCB (10_state.md)

What one instruction may write, said once for every instruction (`exec_written`), and from it the statements about the
registers, the trace and the invariant of a run. -/

namespace Sys2Proof.Machine

/-! ## What an instruction may write -/

/-- `i` is an instruction whose rule writes `l` to LC (10_state.md R28). -/
def WritesLc (i : Instr) (l : Lifecycle) : Prop :=
  (l = .transmitting ∧ (i = .enableTx ∨ i = .setState .transmitting ∨ ∃ bs, i = .startTx bs)) ∨
  (l = .idle ∧ (i = .inhibitTx ∨ i = .disableTx ∨ (∃ g, g ≠ .transmitting ∧ i = .setState g) ∨
    (∃ n, i = .waitTxComplete n) ∨ (∃ u, i = .cwMark u) ∨ ∃ cp rp, i = .configure cp rp)) ∨
  (l = .uninitialized ∧ ∃ cp rp, i = .configure cp rp)

/-- Every register but LC, ERR and the result ports is in `t` as it was in `s`, or `i` is a writer of it and it holds
what `i` writes; the trace grew by whole frames (10_state.md R22 to R30, R35). -/
structure Wrote (i : Instr) (s t : State) : Prop where
  cfg : t.cfg = s.cfg
  pending : t.pending = s.pending
  refclk : t.refclk = s.refclk ∨
    (i = .setReferenceClock t.refclk ∧ 26000000 < t.refclk.toNat ∧ t.refclk.toNat < 30000000)
  carrier : t.carrier = s.carrier ∨ (∃ f, i = .setTxFrequency f ∧ t.carrier = some f) ∨
    (∃ cp rp, i = .configure cp rp ∧ t.carrier = some rp.carrierHz)
  deviation : t.deviation = s.deviation ∨ (∃ d, i = .setDeviation d ∧ t.deviation = some d) ∨
    (∃ cp rp, i = .configure cp rp ∧ t.deviation = some rp.deviationHz)
  groups : (t.cp = s.cp ∧ t.rp = s.rp) ∨ (i = .configure t.cp t.rp ∧ t.rp.power.toNat ≤ 127)
  uf : t.uf = s.uf ∨ ((i = .checkClearUnderflow ∨ i = .clearFifo ∨ ∃ bs, i = .startTx bs) ∧ UnderflowRead s t)
  sdn : t.sdn = s.sdn ∨ ((∃ cp rp, i = .configure cp rp) ∧ t.sdn = lastLevel .low s.cfg.resetTail)
  nsel : t.nsel = s.nsel ∨ t.nsel = .high
  events : ∃ es, t.trace = s.trace ++ es ∧ framed es = true

/-- LC holds what it held in `s`, or what `i` writes. -/
def LcKeptOrWritten (i : Instr) (s : State) (l : Lifecycle) : Prop := l = s.lc ∨ WritesLc i l

/-- What `exec i` leaves at its end: registers as `Wrote` says, and LC kept, written by `i`, or lost by a BusTimeout
(60_exceptions.md R192). -/
structure Written (i : Instr) (s t : State) : Prop extends Wrote i s t where
  lc : LcKeptOrWritten i s t.lc ∨ (t.lc = .uninitialized ∧ t.err = .busTimeout)

theorem Wrote.refl (i : Instr) (s : State) : Wrote i s s :=
  ⟨rfl, rfl, .inl rfl, .inl rfl, .inl rfl, .inl ⟨rfl, rfl⟩, .inl rfl, .inl rfl, .inl rfl, [], by simp⟩

/-- Whole frames on the bus write no register. -/
theorem BusOnly.wrote {s t : State} {es : List Event} (i : Instr) (h : BusOnly s es t) (hf : framed es = true)
    (hs : es.foldl sdnAfter s.sdn = s.sdn) : Wrote i s t := by
  obtain ⟨hr, hc, hd, hcp, hrp, -, hu, hp, -⟩ := h.context
  exact ⟨h.cfg, hp, .inl hr, .inl hc, .inl hd, .inl ⟨hcp, hrp⟩, .inl hu, .inl (h.sdn.trans hs),
    h.nsel ▸ nsel_framed hf s.nsel, es, h.trace, hf⟩

/-- A body other than CONFIGURE's: the three registers `Grew` does not speak of are left to say. -/
theorem Grew.wrote {A : List Event → Prop} {i : Instr} {s t : State} (h : Grew A s t)
    (hc : t.carrier = s.carrier ∨ ∃ f, i = .setTxFrequency f ∧ t.carrier = some f)
    (hd : t.deviation = s.deviation ∨ ∃ d, i = .setDeviation d ∧ t.deviation = some d)
    (hu : t.uf = s.uf ∨
      ((i = .checkClearUnderflow ∨ i = .clearFifo ∨ ∃ bs, i = .startTx bs) ∧ UnderflowRead s t)) :
    Wrote i s t := by
  obtain ⟨es, he, hf, -⟩ := h.events
  exact ⟨h.cfg, h.pending, .inl h.refclk, hc.imp_right .inl, hd.imp_right .inl, .inl ⟨h.cp, h.rp⟩, hu, .inl h.sdn,
    h.nsel, es, he, hf⟩

/-- What comes after a body that was allowed to write, if it writes none of the registers that bodies share. -/
theorem Wrote.grew {A : List Event → Prop} {i : Instr} {s t u : State} (h : Wrote i s t) (hg : Grew A t u)
    (hc : u.carrier = t.carrier) (hd : u.deviation = t.deviation) (hu : u.uf = t.uf) : Wrote i s u := by
  obtain ⟨es, he, hf⟩ := h.events
  obtain ⟨es', he', hf', -⟩ := hg.events
  refine ⟨hg.cfg.trans h.cfg, hg.pending.trans h.pending, hg.refclk ▸ h.refclk, hc ▸ h.carrier, hd ▸ h.deviation, ?_,
    ?_, hg.sdn ▸ h.sdn, hg.nsel.elim (fun e => e ▸ h.nsel) .inr,
    es ++ es', by rw [he', he, List.append_assoc], framed_append hf hf'⟩
  · rw [hg.cp, hg.rp]
    exact h.groups
  · rcases h.uf with hs | ⟨hi, hr⟩
    · exact .inl (hu.trans hs)
    · exact .inr ⟨hi, hr.before hg hu⟩

theorem Wrote.kept {A : List Event → Prop} {i : Instr} {s t u : State} (h : Wrote i s t) (hg : Grew A t u)
    (hk : Kept t u) : Wrote i s u :=
  h.grew hg hk.carrier hk.deviation hk.uf

theorem Wrote.setLc {i : Instr} {s t : State} (h : Wrote i s t) (l : Lifecycle) : Wrote i s (t.setLc l) :=
  h.grew (went_setLc (fun _ => True) l t).toGrew rfl rfl rfl

theorem Wrote.returnOk {i : Instr} {s t : State} (h : Wrote i s t) (v : Result) : Wrote i s (t.returnOk v) :=
  ⟨h.cfg, h.pending, h.refclk, h.carrier, h.deviation, h.groups, h.uf, h.sdn, h.nsel, h.events⟩

theorem Wrote.raise {i : Instr} {s t : State} (h : Wrote i s t) (k : Kind) : Wrote i s (t.raise k) :=
  ⟨h.cfg, h.pending, h.refclk, h.carrier, h.deviation, h.groups, h.uf, h.sdn, h.nsel, h.events⟩

theorem Wrote.withResp {i : Instr} {s t : State} (h : Wrote i s t) (bs : List Byte) :
    Wrote i s { t with resp := bs } :=
  ⟨h.cfg, h.pending, h.refclk, h.carrier, h.deviation, h.groups, h.uf, h.sdn, h.nsel, h.events⟩

/-! ## What the body of an instruction may write -/

/-- The body `r` of `i`, begun at `s`, writes only what `i` may write, however it ends. Where it raises, LC is looked at
after the raise; a BusTimeout loses it whatever it held. -/
def Ran.Writes {α : Type} (i : Instr) (s : State) (r : Ran α) : Prop :=
  r.All (fun _ t => Wrote i s t ∧ LcKeptOrWritten i s t.lc)
    (fun k t => Wrote i s t ∧ (k = .busTimeout ∨ LcKeptOrWritten i s (t.raise k).lc))

theorem finish_written {i : Instr} {s t : State} {r : Ran Result} (h : r.Writes i s) (ht : finish r = .next t) :
    Written i s t := by
  rcases settle_cases h ht with ⟨v, u, ⟨hw, hl⟩, rfl⟩ | ⟨k, u, ⟨hw, hl⟩, rfl⟩
  · exact ⟨hw.returnOk v, .inl hl⟩
  · refine ⟨hw.raise k, ?_⟩
    rcases hl with rfl | hl
    · exact .inr ⟨rfl, rfl⟩
    · exact .inl hl

theorem finishFrame_written {i : Instr} {s t : State} {r : Ran (Option (List Byte))} (h : r.Writes i s)
    (ht : finishFrame r = .next t) : Written i s t := by
  obtain rfl : r.settleFrame = t := by simpa [finishFrame] using ht
  match r, h with
  | .done none _, ⟨hw, hl⟩ => exact ⟨hw, .inl hl⟩
  | .done (some bs) _, ⟨hw, hl⟩ => exact ⟨hw.withResp bs, .inl hl⟩
  | .raised k _, ⟨hw, .inl hk⟩ => exact ⟨hw.raise k, .inr ⟨by simp [hk, losesConfiguration], hk⟩⟩
  | .raised k _, ⟨hw, .inr hl⟩ => exact ⟨hw.raise k, .inl hl⟩

/-- A piece that yields a result from what ran before it. -/
theorem Ran.Writes.result {α β : Type} {i : Instr} {s : State} {r : Ran α} (h : r.Writes i s) (f : α → State → β) :
    (r.bind fun a t => .done (f a t) t).Writes i s := by
  cases r <;> exact h

/-- A body that stops before it did anything. -/
theorem Ran.Writes.of_raised_start (α : Type) (i : Instr) (s : State) {k : Kind} (hk : losesConfiguration k = false) :
    (Ran.raised (α := α) k s).Writes i s :=
  ⟨Wrote.refl i s, .inr (.inl (by simp [hk]))⟩

/-- A body that ran to its end. -/
theorem Ran.Writes.of_done {α : Type} {i : Instr} {s t : State} (ht : Wrote i s t) (hl : LcKeptOrWritten i s t.lc)
    (a : α) : (Ran.done a t).Writes i s :=
  ⟨ht, hl⟩

/-- A body that only yields a value. -/
theorem Ran.Writes.of_done_start {α : Type} (i : Instr) (s : State) (a : α) : (Ran.done a s).Writes i s :=
  .of_done (.refl i s) (.inl rfl) a

/-- A check before a body. -/
theorem Ran.Writes.require {α : Type} {i : Instr} {s : State} {c : Bool} {k : Kind} {f : Unit → State → Ran α}
    (hk : losesConfiguration k = false) (h : c = true → (f () s).Writes i s) :
    ((require c k s).bind f).Writes i s := by
  cases c with
  | true => exact h rfl
  | false => exact .of_raised_start α i s hk

/-- The lifecycle check before a body (60_exceptions.md R189). -/
theorem Ran.Writes.gate {α : Type} {i : Instr} {s : State} {f : Unit → State → Ran α} (h : (f () s).Writes i s) :
    ((requireUp s).bind f).Writes i s :=
  .require rfl fun _ => h

/-- A body in two parts. -/
theorem Ran.Writes.bind {α β : Type} {i : Instr} {s : State} {r : Ran α} {f : α → State → Ran β} (h : r.Writes i s)
    (hf : ∀ a t, Wrote i s t → LcKeptOrWritten i s t.lc → (f a t).Writes i s) : (r.bind f).Writes i s :=
  h.next (fun a t ht => hf a t ht.1 ht.2) (fun _ _ ht => ht)

/-- A part of a body that only waits and sends frames, as the laws of the shared bodies state it. -/
theorem Ran.Writes.of_quiet {α : Type} {A : List Event → Prop} {i : Instr} {s t : State} {r : Ran α} {n : Nat}
    (ht : Wrote i s t) (hl : LcKeptOrWritten i s t.lc)
    (h : r.All (fun _ u => Went A t u ∧ Kept t u) (fun k u => k = .busTimeout ∧ Grew A t u ∧ Kept t u ∧ GaveUp n t u)) :
    r.Writes i s :=
  h.mono (fun _ _ ⟨hg, hk⟩ => ⟨ht.kept hg.toGrew hk, hk.lc ▸ hl⟩)
    (fun _ _ ⟨hr, hg, hk, _⟩ => ⟨ht.kept hg hk, .inl hr⟩)

/-- ISSUE within a body (40_bus_transport.md R103). -/
theorem issue_writes {i : Instr} {s t : State} (ht : Wrote i s t) (hl : LcKeptOrWritten i s t.lc) (opcode : Byte)
    (payload : List Byte) : (issue opcode payload t).Writes i s :=
  .of_quiet ht hl (issue_all (A := fun _ => True) opcode payload t trivial)

/-- READ_RESPONSE within a body (40_bus_transport.md R102). -/
theorem readResponse_writes {i : Instr} {s t : State} (ht : Wrote i s t) (hl : LcKeptOrWritten i s t.lc)
    (n limit : Nat) : (readResponse n limit t).Writes i s :=
  .of_quiet ht hl
    ((readResponse_all (fun _ => True) n limit t).mono (fun _ _ ⟨_, hg, hk, _⟩ => ⟨hg, hk⟩) fun _ _ h => h)

/-- An offset write (42_frequency_synthesizer.md R130). -/
theorem writeOffset_writes (i : Instr) (offset : Nat) (s : State) : (writeOffset offset s).Writes i s :=
  .require rfl fun _ => issue_writes (.refl i s) (.inl rfl) _ _

/-- A frame sent with no wait before it (30_encoding.md R78). -/
theorem sendFrame_wrote (i : Instr) (bs : List Byte) (s : State) : Wrote i s (sendFrame bs s) :=
  (sendFrame_busOnly bs s).wrote i (by simp) (by simp)

theorem sendFrame_writes {α : Type} (i : Instr) (bs : List Byte) (a : α) (s : State) :
    (Ran.done a (sendFrame bs s)).Writes i s :=
  ⟨sendFrame_wrote i bs s, .inl (sendFrame_busOnly bs s).lc⟩

/-- A command frame and its response, as WF_INT_STATUS and WF_REQ_STATE run them (30_encoding.md R84, R87). -/
theorem frameAndResponse_writes (i : Instr) (bs : List Byte) (n limit : Nat) (s : State) :
    (readResponse n limit (sendFrame bs s)).Writes i s :=
  readResponse_writes (sendFrame_wrote i bs s) (.inl (sendFrame_busOnly bs s).lc) n limit

/-! ## The writers' bodies -/

/-- A state command within a body: LC takes the commanded state's value (41_state_controller.md R110). -/
theorem commandState_wrote {i : Instr} {s t : State} (ht : Wrote i s t) (target : OpState) :
    (commandState target t).All (fun _ u => Wrote i s u ∧ u.lc = lifecycleOf target)
      (fun k u => k = .busTimeout ∧ Wrote i s u) :=
  (commandState_all (A := fun _ => True) target t trivial).mono
    (fun _ _ ⟨hg, hc, hd, hu, hl⟩ => ⟨ht.grew hg.toGrew hc hd hu, hl⟩)
    (fun _ _ ⟨hr, hg, hk, _⟩ => ⟨hr, ht.kept hg hk⟩)

theorem stateOperation_writes {i : Instr} {target : OpState} (h : WritesLc i (lifecycleOf target)) (s : State) :
    (stateOperation target s).Writes i s :=
  .gate (.result ((commandState_wrote (.refl i s) target).mono
    (fun _ _ ⟨hw, hl⟩ => ⟨hw, .inr (hl ▸ h)⟩) (fun _ _ ⟨hr, hw⟩ => ⟨hw, .inl hr⟩)) _)

/-- SET_STATE's value of LC depends on its operand only by whether it is `transmitting`. -/
theorem writesLc_setState (target : OpState) : WritesLc (.setState target) (lifecycleOf target) := by
  by_cases h : target = .transmitting
  · subst h
    exact .inl ⟨rfl, .inr (.inl rfl)⟩
  · exact .inr (.inl ⟨by simp [lifecycleOf, h], .inr (.inr (.inl ⟨target, h, rfl⟩))⟩)

theorem tuneTo_writes (f : Word) (s : State) : (tuneTo f s).Writes (.setTxFrequency f) s := by
  refine (tuneTo_all f s).mono
    (fun _ _ ⟨hg, hc, _, hd, hu, hl⟩ => ⟨hg.wrote (.inr ⟨f, rfl, hc⟩) (.inl hd) (.inl hu), .inl hl⟩) ?_
  rintro k t ⟨hg, hc, hd, hu, hl, hk⟩
  refine ⟨hg.wrote (hc.imp_right fun hc => ⟨f, rfl, hc⟩) (.inl hd) (.inl hu), ?_⟩
  rcases hk with ⟨rfl, -⟩ | ⟨rfl, -⟩ | ⟨rfl, -⟩
  · exact .inr (.inl hl)
  · exact .inr (.inl hl)
  · exact .inl rfl

theorem deviateBy_writes (d : Word) (s : State) : (deviateBy d s).Writes (.setDeviation d) s := by
  refine (deviateBy_all d s).mono
    (fun _ _ ⟨hg, hc, _, hd, hu, hl⟩ => ⟨hg.wrote (.inl hc) (.inr ⟨d, rfl, hd⟩) (.inl hu), .inl hl⟩) ?_
  rintro k t ⟨hg, hc, hd, hu, hl, hk⟩
  refine ⟨hg.wrote (.inl hc) (hd.imp_right fun hd => ⟨d, rfl, hd⟩) (.inl hu), ?_⟩
  rcases hk with ⟨rfl, -⟩ | ⟨rfl, -⟩ | ⟨rfl, -⟩
  · exact .inr (.inl hl)
  · exact .inr (.inl hl)
  · exact .inl rfl

theorem checkUnderflow_writes (s : State) : (checkUnderflow s).Writes .checkClearUnderflow s :=
  (checkUnderflow_all s).mono
    (fun _ _ ⟨hg, hc, hd, _, hl, hr⟩ => ⟨hg.wrote (.inl hc) (.inl hd) (.inr ⟨.inl rfl, hr⟩), .inl hl⟩)
    (fun _ _ ⟨hr, hg, hk, _⟩ => ⟨(Wrote.refl _ s).kept hg hk, .inl hr⟩)

/-- A FIFO clear, for the two operations that run it (43_fifo_tx_engine.md R141, R142). -/
theorem clearFifo_writes {i : Instr} (hi : i = .clearFifo ∨ ∃ bs, i = .startTx bs) (s : State) :
    (clearFifo s).Writes i s :=
  (clearFifo_all s).mono
    (fun _ _ ⟨hg, hc, hd, hl, hr⟩ => ⟨hg.wrote (.inl hc) (.inl hd) (.inr ⟨.inr hi, hr⟩), .inl hl⟩)
    (fun _ _ ⟨hr, hg, hc, hd, _, hu, _⟩ =>
      ⟨hg.wrote (.inl hc) (.inl hd) (hu.imp_right fun hu => ⟨.inr hi, hu⟩), .inl hr⟩)

/-- START_TX after its checks (43_fifo_tx_engine.md R142). -/
theorem startTx_writes (buffer : List Byte) (s : State) :
    ((clearFifo s).bind fun _ s =>
      (issue s.cfg.wWriteTxFifo (memReads buffer (min buffer.length 64)) s).bind fun _ s =>
      (issue s.cfg.wStartTx (startTxPayload s.cfg buffer.length) s).bind fun _ s =>
      Ran.done ({ ret := some (BitVec.ofNat 32 (min buffer.length 64)) } : Result) (s.setLc .transmitting)).Writes
      (.startTx buffer) s :=
  (clearFifo_writes (.inr ⟨buffer, rfl⟩) s).bind fun _ _ ht hl =>
  (issue_writes ht hl _ _).bind fun _ _ hu hl =>
  (issue_writes hu hl _ _).bind fun _ _ hv _ => ⟨hv.setLc _, .inr (.inl ⟨rfl, .inr (.inr ⟨buffer, rfl⟩)⟩)⟩

/-- WAIT_TX_COMPLETE after its loop: LC is Idle, done or not (43_fifo_tx_engine.md R144). -/
theorem afterDoneLoop_writes {s t : State} (timeoutMs : Word) (ht : Wrote (.waitTxComplete timeoutMs) s t)
    (isDone : Bool) : (afterDoneLoop isDone t).Writes (.waitTxComplete timeoutMs) s := by
  have hidle : LcKeptOrWritten (.waitTxComplete timeoutMs) s .idle :=
    .inr (.inr (.inl ⟨rfl, .inr (.inr (.inr (.inl ⟨timeoutMs, rfl⟩)))⟩))
  cases isDone with
  | true => exact ⟨ht.setLc _, hidle⟩
  | false =>
    exact (commandState_wrote ht .sleep).next (fun _ _ ⟨hw, _⟩ => ⟨hw.setLc _, .inr hidle⟩)
      (fun _ _ ⟨hr, hw⟩ => ⟨hw, .inl hr⟩)

/-- CW_MARK's two state commands: LC is Idle after both, and a BusTimeout in between loses it
(44_modulation_encoder.md R158). -/
theorem cwMark_writes (units : Word) (s : State) :
    ((commandState .transmitting s).bind fun _ t =>
      commandState .ready (t.emit (.dlyMs (units.toNat * dotMs t.cfg)))).Writes (.cwMark units) s :=
  (commandState_wrote (.refl _ s) .transmitting).next
    (fun _ t ⟨ht, _⟩ =>
      (commandState_wrote (ht.grew (went_emit_dlyMs (fun _ => True) _ t).toGrew rfl rfl rfl) .ready).mono
        (fun _ _ ⟨hw, hl⟩ => ⟨hw, .inr (.inr (.inl ⟨hl, .inr (.inr (.inr (.inr (.inl ⟨units, rfl⟩))))⟩))⟩)
        (fun _ _ ⟨hr, hw⟩ => ⟨hw, .inl hr⟩))
    (fun _ _ ⟨hr, hw⟩ => ⟨hw, .inl hr⟩)

/-- What CONFIGURE does after its power check adds to the state it powered up (45_system_configuration.md R165). -/
theorem wrote_configure {A : List Event → Prop} {cp : ChipParameters} {rp : RadioParameters} {s t : State}
    (hp : rp.power.toNat ≤ 127) (hg : Grew A (s.poweredUp cp rp) t)
    (hc : t.carrier = s.carrier ∨ t.carrier = some rp.carrierHz)
    (hd : t.deviation = s.deviation ∨ t.deviation = some rp.deviationHz) (hu : t.uf = s.uf) :
    Wrote (.configure cp rp) s t := by
  obtain ⟨es, he, hf, -⟩ := hg.events
  have hcp : t.cp = cp := hg.cp
  have hrp : t.rp = rp := hg.rp
  have hn : (s.poweredUp cp rp).nsel = s.nsel ∨ (s.poweredUp cp rp).nsel = .high := by
    by_cases h : powerupFrames s.cfg cp = [] <;> simp [State.poweredUp, h]
  refine ⟨hg.cfg, hg.pending, .inl hg.refclk, hc.imp_right fun hc => .inr ⟨cp, rp, rfl, hc⟩,
    hd.imp_right fun hd => .inr ⟨cp, rp, rfl, hd⟩, .inr ?_, .inl hu, .inr ⟨⟨cp, rp, rfl⟩, hg.sdn⟩,
    hg.nsel.elim (fun e => e ▸ hn) .inr, powerUpEvents s.cfg cp ++ es, ?_, framed_append (framed_powerUpEvents _ _) hf⟩
  · rw [hcp, hrp]
    exact ⟨rfl, hp⟩
  · rw [he]
    simp [State.poweredUp]

theorem configureWith_writes (cp : ChipParameters) {rp : RadioParameters} (s : State) (hp : rp.power.toNat ≤ 127) :
    (configureWith cp rp s).Writes (.configure cp rp) s := by
  have hdown : LcKeptOrWritten (.configure cp rp) s .uninitialized := .inr (.inr (.inr ⟨rfl, cp, rp, rfl⟩))
  refine (configureWith_all cp rp s).mono ?_ ?_
  · rintro _ t ⟨hg, hc, hd, hu, hl⟩
    refine ⟨wrote_configure hp hg.toGrew (.inr hc) (.inr hd) hu, hl ▸ .inr (.inr (.inl ⟨rfl, ?_⟩))⟩
    exact .inr (.inr (.inr (.inr (.inr ⟨cp, rp, rfl⟩))))
  · rintro k t ⟨hg, hc, hd, hu, hl, -⟩
    refine ⟨wrote_configure hp hg hc hd hu, .inr ?_⟩
    rw [State.raise_lc, hl, ite_self]
    exact hdown

/-- SET_REFERENCE_CLOCK stores only what REFCLK can hold (42_frequency_synthesizer.md R129). -/
theorem setRefclk_wrote (hz : Word) (s : State) (h : 26000000 < hz.toNat ∧ hz.toNat < 30000000) :
    Wrote (.setReferenceClock hz) s (s.setRefclk hz) :=
  ⟨rfl, rfl, .inr ⟨rfl, h⟩, .inl rfl, .inl rfl, .inl ⟨rfl, rfl⟩, .inl rfl, .inl rfl, .inl rfl, [], by simp⟩

/-! ## Every instruction -/

/-- Whatever an instruction does, it writes only what it is a writer of, and adds whole frames to the trace. -/
theorem exec_written {i : Instr} {s t : State} (h : exec i s = .next t) : Written i s t := by
  have h0 := Wrote.refl i s
  have hl0 : LcKeptOrWritten i s s.lc := .inl rfl
  cases i with
  | configure cp rp =>
    exact finish_written (.require rfl fun hp => .result (configureWith_writes cp s (of_decide_eq_true hp)) _) h
  | setPower level => exact finish_written (.gate (.require rfl fun _ => .result (issue_writes h0 hl0 _ _) _)) h
  | readContext sel =>
    refine finish_written ?_ h
    cases contextValue sel s with
    | none => exact .of_raised_start _ _ s rfl
    | some v => exact .of_done_start _ s _
  | sendCommand opcode payload => exact finish_written (.gate (.require rfl fun _ => sendFrame_writes _ _ _ s)) h
  | waitCts limit =>
    exact finish_written (.gate (.result (.of_quiet h0 hl0 (waitLoop_all (fun _ => True) _ s)) _)) h
  | readResponse length limit => exact finish_written (.gate (.result (readResponse_writes h0 hl0 _ _) _)) h
  | setState target => exact finish_written (stateOperation_writes (writesLc_setState target) s) h
  | enableTx => exact finish_written (stateOperation_writes (.inl ⟨rfl, .inl rfl⟩) s) h
  | inhibitTx => exact finish_written (stateOperation_writes (.inr (.inl ⟨rfl, .inl rfl⟩)) s) h
  | disableTx => exact finish_written (stateOperation_writes (.inr (.inl ⟨rfl, .inr (.inl rfl)⟩)) s) h
  | selectOutdiv freqHz => exact finish_written (.of_done_start _ s _) h
  | selectBand freqHz => exact finish_written (.of_done_start _ s _) h
  | setTxFrequency freqHz => exact finish_written (.gate (.result (tuneTo_writes freqHz s) _)) h
  | calcDeviation deviationHz =>
    refine finish_written ?_ h
    cases s.carrier with
    | none => exact .of_raised_start _ _ s rfl
    | some c => exact .of_done_start _ s _
  | setDeviation deviationHz => exact finish_written (.gate (.result (deviateBy_writes deviationHz s) _)) h
  | setReferenceClock hz =>
    exact finish_written (.require rfl fun hr => .of_done (setRefclk_wrote hz s (of_decide_eq_true hr)) (.inl rfl) _) h
  | setFrequencyOffset offset => exact finish_written (.gate (.result (writeOffset_writes _ _ s) _)) h
  | checkClearUnderflow => exact finish_written (.gate (.result (checkUnderflow_writes s) _)) h
  | clearFifo => exact finish_written (.gate (.result (clearFifo_writes (.inl rfl) s) _)) h
  | startTx buffer => exact finish_written (.gate (.require rfl fun _ => startTx_writes buffer s)) h
  | waitTxComplete timeoutMs =>
    exact finish_written (.gate ((Ran.Writes.of_quiet h0 hl0 (doneLoop_all _ s)).bind fun isDone _ ht _ =>
      afterDoneLoop_writes timeoutMs ht isDone)) h
  | requestDeviceState => exact finish_written (.gate (.result (.of_quiet h0 hl0 (queryState_all s)) _)) h
  | fsk4Write buffer =>
    have hb := sendSymbols_all (buffer.flatMap symbolsOf) s
    rw [← writeBytes_eq] at hb
    exact finish_written (.gate (.result (.of_quiet h0 hl0 hb) _)) h
  | fsk4WriteByte b =>
    exact finish_written (.gate (.require rfl fun _ => .result (.of_quiet h0 hl0 (sendSymbols_all _ s)) _)) h
  | fsk4Preamble n =>
    have hb := sendSymbols_all (List.replicate n.toNat (symbolsOf trainingByte)).flatten s
    rw [← repeatByte_eq] at hb
    exact finish_written (.gate (.result (.of_quiet h0 hl0 hb) _)) h
  | fsk4Idle => exact finish_written (.gate (.result (writeOffset_writes _ _ s) _)) h
  | cwMark units =>
    have hb := (cwMark_writes units s).result fun _ _ => ({} : Result)
    rw [Ran.bind_assoc] at hb
    exact finish_written (.gate hb) h
  | cwSpace units =>
    exact finish_written (.gate (.of_done (h0.kept (went_emit_dlyMs (fun _ => True) _ s).toGrew (kept_emit _ s)) hl0 _)) h
  | wfSetProperty group start values => exact finishFrame_written (.require rfl fun _ => sendFrame_writes _ _ _ s) h
  | wfPoll =>
    have hp := pollFrame_busOnly s
    exact finishFrame_written (.of_done (hp.wrote _ (by simp) (by simp)) (.inl hp.lc) none) h
  | wfResp length =>
    have hp := respFrame_busOnly length s
    exact finishFrame_written (.of_done (hp.wrote _ (by simp) (by simp)) (.inl hp.lc) (some _)) h
  | wfChangeState target => exact finishFrame_written (sendFrame_writes _ _ none s) h
  | wfFifoReset => exact finishFrame_written (sendFrame_writes _ _ none s) h
  | wfIntStatus => exact finishFrame_written (.result (frameAndResponse_writes _ _ _ _ s) _) h
  | wfWriteTxFifo data => exact finishFrame_written (.require rfl fun _ => sendFrame_writes _ _ _ s) h
  | wfStartTx total => exact finishFrame_written (sendFrame_writes _ _ none s) h
  | wfReqState => exact finishFrame_written (.result (frameAndResponse_writes _ _ _ _ s) _) h

/-- Settles O53: each clause is the field of `Wrote` for its register. -/
theorem registersChangeOnlyByTheirWriters : Obligations.RegistersChangeOnlyByTheirWriters := by
  intro i s t h
  have w := exec_written h
  refine ⟨w.cfg, w.pending, fun hn => (w.refclk.resolve_left hn).1, w.carrier.resolve_left, w.deviation.resolve_left,
    ?_, ?_, ?_, w.sdn.resolve_left, w.nsel.resolve_left⟩
  · intro hn
    rcases w.groups with ⟨hcp, hrp⟩ | ⟨hi, -⟩
    · exact absurd hn (by simp [hcp, hrp])
    · exact hi
  · intro hn
    rcases w.lc with (hk | hw | hw | ⟨hl, hc⟩) | ⟨hl, he⟩
    · exact absurd hk hn
    · exact .inl hw
    · exact .inr (.inl hw)
    · exact .inr (.inr ⟨hl, .inr hc⟩)
    · exact .inr (.inr ⟨hl, .inl he⟩)
  · intro hn
    obtain ⟨hi, status, hlen, ⟨es, he, -, hm⟩, hb⟩ := w.uf.resolve_left hn
    exact ⟨hi, es, status, he, hlen, hm, hb⟩

/-- Settles O54: the events and the select pin of `Wrote`. -/
theorem eventsAreWholeFrames : Obligations.EventsAreWholeFrames := by
  intro i s t h
  have w := exec_written h
  obtain ⟨es, he, hf⟩ := w.events
  exact ⟨es, he, hf, fun hn => w.nsel.elim (·.trans hn) id⟩

end Sys2Proof.Machine
end

section
/-! # The step and the invariant of a run (10_state.md)

How host operations end and what they need of LC, the frequency that reads back, and the invariant of a run, kept by
every step. -/

namespace Sys2Proof.Machine

/-! ## Reset and the step -/

/-- Settles O1: the fields of `State.reset`. -/
theorem resetLeavesTheSpecValues : Obligations.ResetLeavesTheSpecValues :=
  ⟨rfl, rfl, rfl, rfl, rfl, rfl, rfl, rfl⟩

/-- Without a request the step waits (70_reset_and_hazards.md R200). -/
theorem step_nil {s : State} (h : s.pending = []) : step s = .next s := by
  simp [step, fetch, h]

/-- A request that selects an operation is taken and run (10_state.md R31). -/
theorem step_ok {s : State} {r : Request} {rest : List Request} {i : Instr} (h : s.pending = r :: rest)
    (hd : decodeRequest r = .ok i) : step s = exec i { s with pending := rest } := by
  simp [step, fetch, h, decode, hd]

/-- A request that selects none is taken and refused (30_encoding.md R91). -/
theorem step_error {s : State} {r : Request} {rest : List Request} {e : DecodeError} (h : s.pending = r :: rest)
    (hd : decodeRequest r = .error e) : step s = .next (refuseRequest { s with pending := rest }) := by
  simp [step, fetch, h, decode, hd]

/-- Settles O3, by `step_ok`. -/
theorem stepRunsTheDecodedRequest : Obligations.StepRunsTheDecodedRequest :=
  fun _ _ _ _ hp hd => step_ok hp hd

/-- A request never selects a wire frame (30_encoding.md R75). -/
theorem decodeRequest_isHostOp {r : Request} {i : Instr} (h : decodeRequest r = .ok i) : i.isHostOp = true := by
  unfold decodeRequest at h
  split at h <;> cases h <;> rfl

/-! ## How host operations end -/

/-- A host operation ends as `finish` says (60_exceptions.md R180). -/
theorem exec_hostOp {i : Instr} (hi : i.isHostOp = true) (s : State) : ∃ r, exec i s = finish r := by
  cases i
  case wfSetProperty | wfPoll | wfResp | wfChangeState | wfFifoReset | wfIntStatus | wfWriteTxFifo | wfStartTx |
    wfReqState => cases hi
  all_goals exact ⟨_, rfl⟩

/-- A gated operation begins with the lifecycle check (60_exceptions.md R189). -/
theorem exec_gated {i : Instr} (hi : gated i = true) :
    ∃ f : Unit → State → Ran Result, ∀ s, exec i s = finish ((requireUp s).bind f) := by
  cases i
  case configure | readContext | selectOutdiv | selectBand | calcDeviation | setReferenceClock => cases hi
  case wfSetProperty | wfPoll | wfResp | wfChangeState | wfFifoReset | wfIntStatus | wfWriteTxFifo | wfStartTx |
    wfReqState => cases hi
  all_goals exact ⟨_, fun _ => rfl⟩

/-- BusTimeout and PowerUpFailure leave LC Uninitialized (60_exceptions.md R192). -/
theorem lc_of_lost {i : Instr} {s t : State} (hi : i.isHostOp = true) (h : exec i s = .next t)
    (he : t.err = .busTimeout ∨ t.err = .powerUpFailure) : t.lc = .uninitialized := by
  obtain ⟨r, hr⟩ := exec_hostOp hi s
  obtain rfl : r.settle = t := by simpa [hr, finish] using h
  cases r with
  | done v u => simp at he
  | raised k u => rcases he with he | he <;> simp_all [losesConfiguration]

/-- A gated operation at a state that is down is refused, and nothing else happens (60_exceptions.md R189). -/
theorem exec_gated_down {i : Instr} {s t : State} (hi : gated i = true) (hs : s.lc = .uninitialized)
    (h : exec i s = .next t) : t = s.raise .refused := by
  obtain ⟨f, hf⟩ := exec_gated hi
  rw [hf, requireUp_down hs] at h
  simpa [finish, eq_comm] using h

/-- A host operation that ends with no event and LC as it was. -/
theorem finish_silent {s t : State} {r : Ran Result}
    (hr : r.All (fun _ u => u.trace = s.trace ∧ u.lc = s.lc)
      (fun k u => losesConfiguration k = false ∧ u.trace = s.trace ∧ u.lc = s.lc)) (h : finish r = .next t) :
    t.trace = s.trace ∧ t.lc = s.lc := by
  rcases settle_cases hr h with ⟨v, u, hu, rfl⟩ | ⟨k, u, ⟨hk, hu⟩, rfl⟩
  · exact hu
  · simpa [hk] using hu

/-- The host operations that are neither gated nor CONFIGURE emit nothing and leave LC alone (60_exceptions.md R189). -/
theorem exec_ungated {i : Instr} {s t : State} (hi : i.isHostOp = true) (hg : gated i = false)
    (hc : ∀ cp rp, i ≠ .configure cp rp) (h : exec i s = .next t) : t.trace = s.trace ∧ t.lc = s.lc := by
  cases i
  case configure cp rp => exact absurd rfl (hc cp rp)
  case readContext sel =>
    refine finish_silent ?_ h
    cases contextValue sel s <;> simp [losesConfiguration]
  case calcDeviation deviationHz =>
    refine finish_silent ?_ h
    cases s.carrier <;> simp [losesConfiguration]
  case selectOutdiv freqHz => exact finish_silent (r := .done _ s) ⟨rfl, rfl⟩ h
  case selectBand freqHz => exact finish_silent (r := .done _ s) ⟨rfl, rfl⟩ h
  case setReferenceClock hz =>
    refine finish_silent (.bind (P := fun _ u => u = s) (require_all (fun _ => rfl) fun _ => ⟨rfl, rfl, rfl⟩) ?_) h
    rintro _ _ rfl
    exact ⟨rfl, rfl⟩
  case wfSetProperty | wfPoll | wfResp | wfChangeState | wfFifoReset | wfIntStatus | wfWriteTxFifo | wfStartTx |
    wfReqState => cases hi
  all_goals cases hg

/-- CONFIGURE is rejected at its power check, or its events begin with the shutdown line driven low, and it leaves the
down state only with both context registers valid (45_system_configuration.md R165). -/
theorem exec_configure_cases {cp : ChipParameters} {rp : RadioParameters} {s t : State}
    (h : exec (.configure cp rp) s = .next t) :
    (t.trace = s.trace ∧ t.lc = s.lc) ∨
    ((∃ es, t.trace = s.trace ++ .sdn .low :: es) ∧
      (t.lc ≠ .uninitialized → t.carrier ≠ none ∧ t.deviation ≠ none)) := by
  have hstart : ∀ {u : State}, Grew (fun _ => True) (s.poweredUp cp rp) u →
      ∃ es, u.trace = s.trace ++ .sdn .low :: es := by
    intro u hg
    obtain ⟨es, he, -⟩ := hg.events
    exact ⟨s.cfg.resetTail.map PinEvent.toEvent ++
      (powerupFrames s.cfg cp).flatMap (fun f => frameW (frameBytes f)) ++ es,
      by simp [he, State.poweredUp, powerUpEvents]⟩
  by_cases hp : rp.power.toNat ≤ 127
  · rw [exec, execConfigure, require_pos hp, Ran.bind_done] at h
    have hbody : ((configureWith cp rp s).bind fun _ t => .done ({} : Result) t).All
        (fun _ u => (∃ es, u.trace = s.trace ++ .sdn .low :: es) ∧ u.carrier ≠ none ∧ u.deviation ≠ none)
        (fun _ u => (∃ es, u.trace = s.trace ++ .sdn .low :: es) ∧ u.lc = .uninitialized) :=
      (configureWith_all cp rp s).next
        (fun _ _ ⟨hg, hc, hd, _⟩ => ⟨hstart hg.toGrew, by simp [hc], by simp [hd]⟩)
        (fun _ _ ⟨hg, _, _, _, hl, _⟩ => ⟨hstart hg, hl⟩)
    rcases settle_cases hbody h with ⟨v, u, ⟨he, hv⟩, rfl⟩ | ⟨k, u, ⟨he, hl⟩, rfl⟩
    · exact .inr ⟨he, fun _ => hv⟩
    · exact .inr ⟨he, fun hn => absurd (by simp [hl]) hn⟩
  · rw [exec, execConfigure, require_neg hp, Ran.bind_raised] at h
    exact .inl (finish_silent (r := .raised .rangeFault s) ⟨rfl, rfl, rfl⟩ h)

/-- A host operation at a state that is down emits nothing and leaves it down, or begins by driving the shutdown line
low and leaves it only with both context registers valid (70_reset_and_hazards.md R203). -/
theorem exec_down_cases {i : Instr} {s t : State} (hi : i.isHostOp = true) (hs : s.lc = .uninitialized)
    (h : exec i s = .next t) :
    (t.trace = s.trace ∧ t.lc = .uninitialized) ∨
    ((∃ es, t.trace = s.trace ++ .sdn .low :: es) ∧
      (t.lc ≠ .uninitialized → t.carrier ≠ none ∧ t.deviation ≠ none)) := by
  by_cases hc : ∃ cp rp, i = .configure cp rp
  · obtain ⟨cp, rp, rfl⟩ := hc
    simpa [hs] using exec_configure_cases h
  · push Not at hc
    left
    cases hg : gated i with
    | true =>
      rw [exec_gated_down hg hs h]
      exact ⟨rfl, hs⟩
    | false => simpa [hs] using exec_ungated hi hg hc h

/-! ## A frequency set reads back -/

/-- SET_TX_FREQUENCY stores its operand whenever it ends in OK (42_frequency_synthesizer.md R125). -/
theorem carrier_of_setTxFrequency_ok {f : Word} {s t : State} (h : exec (.setTxFrequency f) s = .next t)
    (ht : t.err = .ok) : t.carrier = some f := by
  have hbody : ((requireUp s).bind fun _ s => (tuneTo f s).bind fun _ s => .done ({} : Result) s).All
      (fun _ u => u.carrier = some f) (fun k _ => k ≠ .ok) := by
    refine .bind (P := fun _ _ => True) (require_all (fun _ => trivial) (fun _ => by decide)) fun _ s _ => ?_
    refine (tuneTo_all f s).next (fun _ _ ⟨_, hc, _⟩ => hc) ?_
    rintro k u ⟨-, -, -, -, -, ⟨rfl, -⟩ | ⟨rfl, -⟩ | ⟨rfl, -⟩⟩ <;> decide
  rcases settle_cases hbody h with ⟨v, u, hu, rfl⟩ | ⟨k, u, hk, rfl⟩
  · exact hu
  · exact absurd ht hk

/-- A context register that is valid is read, and nothing else changes (45_system_configuration.md R167). -/
theorem readContext_returns {sel : ContextSel} {s : State} {v : Word} (h : contextValue sel s = some v) :
    Returns (.readContext sel) s v s :=
  Returns.of_done (r := .done { ret := some v } s) (by simp only [exec, execReadContext, h]) rfl

/-- Settles O20: a set that ends in OK stored its operand, and a valid context register is read as it is. -/
theorem storedCarrierReadsBack : Obligations.StoredCarrierReadsBack :=
  fun _ _ _ h ht => readContext_returns (carrier_of_setTxFrequency_ok h ht)

/-! ## The invariant of a run -/

/-- Settles O46, clause by clause. -/
theorem invHoldsAfterReset : Obligations.InvHoldsAfterReset where
  released := rfl
  framed := rfl
  refclk_low := by decide
  refclk_high := by decide
  not_configured := by decide
  carrier_valid h := absurd rfl h
  deviation_valid h := absurd rfl h
  power_range := by decide
  lost := by decide
  first_event := .inl rfl
  configured_first h := absurd rfl h

/-- What the first events of a trace are does not change when it grows. -/
theorem head?_of_grown {es es' : List Event} {e : Event} (h : es = [] ∨ es.head? = some e) (hn : es ≠ []) :
    (es ++ es').head? = some e := by
  simp [List.head?_append, h.resolve_left hn]

theorem Wrote.carrier_ne_none {i : Instr} {s t : State} (h : Wrote i s t) (hs : s.carrier ≠ none) :
    t.carrier ≠ none := by
  rcases h.carrier with hc | ⟨f, -, hc⟩ | ⟨cp, rp, -, hc⟩
  · rwa [hc]
  · simp [hc]
  · simp [hc]

theorem Wrote.deviation_ne_none {i : Instr} {s t : State} (h : Wrote i s t) (hs : s.deviation ≠ none) :
    t.deviation ≠ none := by
  rcases h.deviation with hd | ⟨d, -, hd⟩ | ⟨cp, rp, -, hd⟩
  · rwa [hd]
  · simp [hd]
  · simp [hd]

/-- No rule leaves LC at Configured (10_state.md R28). -/
theorem WritesLc.ne_configured {i : Instr} {l : Lifecycle} (h : WritesLc i l) : l ≠ .configured := by
  rcases h with ⟨rfl, -⟩ | ⟨rfl, -⟩ | ⟨rfl, -⟩ <;> decide

theorem Written.lc_ne_configured {i : Instr} {s t : State} (h : Written i s t) (hs : s.lc ≠ .configured) :
    t.lc ≠ .configured := by
  rcases h.lc with (hl | hl) | ⟨hl, -⟩
  · rwa [hl]
  · exact hl.ne_configured
  · simp [hl]

/-- The clauses of the invariant that speak of a configured state, and of the first event. -/
structure ConfiguredInOrder (t : State) : Prop where
  carrier_valid : t.lc ≠ .uninitialized → t.carrier ≠ none
  deviation_valid : t.lc ≠ .uninitialized → t.deviation ≠ none
  first_event : t.trace = [] ∨ t.trace.head? = some (.sdn .low)
  configured_first : t.lc ≠ .uninitialized → t.trace ≠ []

/-- A host operation keeps them: from a configured state it invalidates nothing, and from a state that is down only
CONFIGURE acts. -/
theorem exec_configuredInOrder {i : Instr} {s t : State} (hs : RunInvariant s) (hi : i.isHostOp = true)
    (h : exec i s = .next t) : ConfiguredInOrder t := by
  have w := exec_written h
  by_cases hd : s.lc = .uninitialized
  · rcases exec_down_cases hi hd h with ⟨ht, hl⟩ | ⟨⟨es, he⟩, hv⟩
    · exact ⟨fun hn => absurd hl hn, fun hn => absurd hl hn, ht ▸ hs.first_event, fun hn => absurd hl hn⟩
    · refine ⟨fun hn => (hv hn).1, fun hn => (hv hn).2, .inr ?_, fun _ => by simp [he]⟩
      rcases hs.first_event with hnil | hhead
      · simp [he, hnil]
      · simp [he, hhead]
  · obtain ⟨es, he, -⟩ := w.events
    have hne := hs.configured_first hd
    exact ⟨fun _ => w.carrier_ne_none (hs.carrier_valid hd), fun _ => w.deviation_ne_none (hs.deviation_valid hd),
      .inr (he ▸ head?_of_grown hs.first_event hne), fun _ => by simp [he, hne]⟩

/-- A host operation keeps the invariant. -/
theorem exec_keeps_inv {i : Instr} {s t : State} (hs : RunInvariant s) (hi : i.isHostOp = true)
    (h : exec i s = .next t) : RunInvariant t := by
  have w := exec_written h
  have c := exec_configuredInOrder hs hi h
  obtain ⟨es, he, hf⟩ := w.events
  have hclk : 26000000 ≤ t.refclk.toNat ∧ t.refclk.toNat < 30000000 := by
    rcases w.refclk with hr | ⟨-, hlow, hhigh⟩
    · rw [hr]
      exact ⟨hs.refclk_low, hs.refclk_high⟩
    · exact ⟨hlow.le, hhigh⟩
  exact
    { released := w.nsel.elim (·.trans hs.released) id
      framed := he ▸ framed_append hs.framed hf
      refclk_low := hclk.1
      refclk_high := hclk.2
      not_configured := w.lc_ne_configured hs.not_configured
      carrier_valid := c.carrier_valid
      deviation_valid := c.deviation_valid
      power_range := by
        rcases w.groups with ⟨-, hrp⟩ | ⟨-, hp⟩
        · exact hrp ▸ hs.power_range
        · exact hp
      lost := lc_of_lost hi h
      first_event := c.first_event
      configured_first := c.configured_first }

/-- The invariant does not look at the requests to come. -/
theorem RunInvariant.withPending {s : State} (h : RunInvariant s) (rest : List Request) :
    RunInvariant { s with pending := rest } :=
  ⟨h.released, h.framed, h.refclk_low, h.refclk_high, h.not_configured, h.carrier_valid, h.deviation_valid,
    h.power_range, h.lost, h.first_event, h.configured_first⟩

/-- A reserved operation code keeps the invariant (30_encoding.md R91). -/
theorem RunInvariant.refuseRequest {s : State} (h : RunInvariant s) : RunInvariant (refuseRequest s) :=
  ⟨h.released, h.framed, h.refclk_low, h.refclk_high, h.not_configured, h.carrier_valid, h.deviation_valid,
    h.power_range, by simp [Machine.refuseRequest], h.first_event, h.configured_first⟩

/-- Settles O47: a step waits, refuses a reserved code, or runs a host operation. -/
theorem everyStepKeepsInv : Obligations.EveryStepKeepsInv := by
  intro s t hs h
  cases hp : s.pending with
  | nil =>
    rw [step_nil hp] at h
    cases h
    exact hs
  | cons r rest =>
    have hs' := hs.withPending rest
    cases hd : decodeRequest r with
    | ok i =>
      rw [step_ok hp hd] at h
      exact exec_keeps_inv hs' (decodeRequest_isHostOp hd) h
    | error e =>
      rw [step_error hp hd] at h
      cases h
      exact hs'.refuseRequest

end Sys2Proof.Machine
end

section
/-! # The chip's memories, reached over the bus (20_memory.md)

Every command frame goes out behind a ready poll. `Grew` says so of each body that operations share; here it is carried
through the operations made of them. -/

namespace Sys2Proof.Machine

/-! ## Bodies whose command frames are guarded -/

/-- However the body `r`, begun at `s`, ends, it added whole guarded frames and delays (20_memory.md R63). -/
def Ran.Guarded {α : Type} (s : State) (r : Ran α) : Prop :=
  r.All (fun _ t => Grew (fun _ => True) s t) (fun _ t => Grew (fun _ => True) s t)

/-- Guarding does not depend on the kind of command frame. -/
theorem Grew.any {A : List Event → Prop} {s t : State} (h : Grew A s t) : Grew (fun _ => True) s t := by
  obtain ⟨es, he, hf, hg, -⟩ := h.events
  exact { h with events := ⟨es, he, hf, hg, fun _ _ _ => trivial⟩ }

/-- The end of an operation adds no event to those of its body. -/
theorem finish_guarded {s t : State} {r : Ran Result} (h : r.Guarded s) (ht : finish r = .next t) :
    ∃ es, t.trace = s.trace ++ es ∧ ctsGuarded s.cfg es = true := by
  have hu : ∃ u, Grew (fun _ => True) s u ∧ t.trace = u.trace := by
    rcases settle_cases h ht with ⟨v, u, hu, rfl⟩ | ⟨k, u, hu, rfl⟩
    · exact ⟨u, hu, rfl⟩
    · exact ⟨u, hu, rfl⟩
  obtain ⟨u, hu, htr⟩ := hu
  obtain ⟨es, he, -, hg, -⟩ := hu.events
  exact ⟨es, htr.trans he, hg⟩

theorem Ran.Guarded.of_done {α : Type} {s t : State} (h : Went (fun _ => True) s t) (a : α) :
    (Ran.done a t).Guarded s :=
  h.toGrew

/-- A body in two parts. -/
theorem Ran.Guarded.bind {α β : Type} {s : State} {r : Ran α} {f : α → State → Ran β} (h : r.Guarded s)
    (hf : ∀ a t, (f a t).Guarded t) : (r.bind f).Guarded s :=
  h.next (fun a t ht => (hf a t).mono (fun _ _ => ht.trans) (fun _ _ => ht.trans)) (fun _ _ ht => ht)

/-- A body that begins after a delay. -/
theorem Ran.Guarded.afterDelay {α : Type} {n : Nat} {s : State} {r : Ran α} (h : r.Guarded (s.emit (.dlyMs n))) :
    r.Guarded s :=
  have hd := went_emit_dlyMs (fun _ => True) n s
  h.mono (fun _ _ => hd.after) (fun _ _ => hd.after)

/-- A piece that yields a result from what ran before it. -/
theorem Ran.Guarded.result {α β : Type} {s : State} {r : Ran α} (h : r.Guarded s) (f : α → State → β) :
    (r.bind fun a t => .done (f a t) t).Guarded s :=
  h.bind fun _ t => .of_done (Went.refl _ t) _

/-- A check before a body. -/
theorem Ran.Guarded.require {α : Type} {s : State} {c : Bool} {k : Kind} {f : Unit → State → Ran α}
    (h : (f () s).Guarded s) : ((require c k s).bind f).Guarded s := by
  cases c with
  | true => exact h
  | false => exact Grew.refl _ s

/-- The lifecycle check before a body (60_exceptions.md R189). -/
theorem Ran.Guarded.gate {α : Type} {s : State} {f : Unit → State → Ran α} (h : (f () s).Guarded s) :
    ((requireUp s).bind f).Guarded s :=
  .require h

/-- A part of a body that only waits and sends frames, as the laws of the shared bodies state it. -/
theorem Ran.Guarded.of_quiet {α : Type} {A : List Event → Prop} {s : State} {r : Ran α} {n : Nat}
    (h : r.All (fun _ t => Went A s t ∧ Kept s t) (fun k t => k = .busTimeout ∧ Grew A s t ∧ Kept s t ∧ GaveUp n s t)) :
    r.Guarded s :=
  h.mono (fun _ _ ⟨hg, _⟩ => hg.toGrew.any) (fun _ _ ⟨_, hg, _⟩ => hg.any)

/-! ## The shared bodies -/

theorem issue_guarded (opcode : Byte) (payload : List Byte) (s : State) : (issue opcode payload s).Guarded s :=
  .of_quiet (issue_all (A := fun _ => True) opcode payload s trivial)

theorem readResponse_guarded (n limit : Nat) (s : State) : (readResponse n limit s).Guarded s :=
  (readResponse_all (fun _ => True) n limit s).mono (fun _ _ ⟨_, hg, _⟩ => hg.toGrew) (fun _ _ ⟨_, hg, _⟩ => hg)

theorem commandState_guarded (target : OpState) (s : State) : (commandState target s).Guarded s :=
  (issue_guarded _ _ s).bind fun _ t => .of_done (went_setLc _ _ t) ()

theorem stateOperation_guarded (target : OpState) (s : State) : (stateOperation target s).Guarded s :=
  .gate ((commandState_guarded target s).result _)

theorem checkUnderflow_guarded (s : State) : (checkUnderflow s).Guarded s :=
  (checkUnderflow_all s).mono (fun _ _ ⟨hg, _⟩ => hg.toGrew) (fun _ _ ⟨_, hg, _⟩ => hg)

theorem clearFifo_guarded (s : State) : (clearFifo s).Guarded s :=
  (checkUnderflow_guarded s).bind fun _ t => issue_guarded _ _ t

theorem writeOffset_guarded (offset : Nat) (s : State) : (writeOffset offset s).Guarded s :=
  .require (issue_guarded _ _ s)

theorem sendSymbols_guarded (ys : List (BitVec 2)) (s : State) : (sendSymbols ys s).Guarded s :=
  .of_quiet (sendSymbols_all ys s)

theorem tuneTo_guarded (f : Word) (s : State) : (tuneTo f s).Guarded s :=
  (tuneTo_all f s).mono (fun _ _ ⟨hg, _⟩ => hg.toGrew) (fun _ _ ⟨hg, _⟩ => hg)

theorem deviateBy_guarded (d : Word) (s : State) : (deviateBy d s).Guarded s :=
  (deviateBy_all d s).mono (fun _ _ ⟨hg, _⟩ => hg.toGrew) (fun _ _ ⟨hg, _⟩ => hg)

/-- WAIT_TX_COMPLETE after its loop: the sleep command, if no done state was seen (43_fifo_tx_engine.md R144). -/
theorem afterDoneLoop_guarded (isDone : Bool) (s : State) : (afterDoneLoop isDone s).Guarded s := by
  cases isDone with
  | true => exact .of_done (went_setLc _ .idle s) _
  | false => exact (commandState_guarded .sleep s).bind fun _ t => (went_setLc _ .idle t).toGrew

/-- CONFIGURE's body, from the state it powered up: its handshake, then guarded frames only
(45_system_configuration.md R165). -/
theorem configureWith_guarded (cp : ChipParameters) (rp : RadioParameters) (s : State) :
    (configureWith cp rp s).Guarded (s.poweredUp cp rp) :=
  (configureWith_all cp rp s).mono (fun _ _ ⟨hg, _⟩ => hg.toGrew) (fun _ _ ⟨hg, _⟩ => hg)

/-! ## Every host operation -/

/-- Of the gated operations, only the raw SEND_COMMAND sends a frame with no wait before it. -/
theorem exec_gated_guarded {i : Instr} {s t : State} (hi : gated i = true) (hs : ∀ c bs, i ≠ .sendCommand c bs)
    (h : exec i s = .next t) : ∃ es, t.trace = s.trace ++ es ∧ ctsGuarded s.cfg es = true := by
  cases i with
  | setPower level => exact finish_guarded (.gate (.require ((issue_guarded _ _ s).result _))) h
  | sendCommand opcode payload => exact absurd rfl (hs opcode payload)
  | waitCts limit => exact finish_guarded (.gate (.result (.of_quiet (waitLoop_all (fun _ => True) _ s)) _)) h
  | readResponse length limit => exact finish_guarded (.gate ((readResponse_guarded _ _ s).result _)) h
  | setState target => exact finish_guarded (stateOperation_guarded target s) h
  | enableTx => exact finish_guarded (stateOperation_guarded .transmitting s) h
  | inhibitTx => exact finish_guarded (stateOperation_guarded .ready s) h
  | disableTx => exact finish_guarded (stateOperation_guarded .sleep s) h
  | setTxFrequency freqHz => exact finish_guarded (.gate ((tuneTo_guarded freqHz s).result _)) h
  | setDeviation deviationHz => exact finish_guarded (.gate ((deviateBy_guarded deviationHz s).result _)) h
  | setFrequencyOffset offset => exact finish_guarded (.gate ((writeOffset_guarded _ s).result _)) h
  | checkClearUnderflow => exact finish_guarded (.gate ((checkUnderflow_guarded s).result _)) h
  | clearFifo => exact finish_guarded (.gate ((clearFifo_guarded s).result _)) h
  | startTx buffer =>
    exact finish_guarded (.gate (.require ((clearFifo_guarded s).bind fun _ t => (issue_guarded _ _ t).bind fun _ u =>
      (issue_guarded _ _ u).bind fun _ v => .of_done (went_setLc _ .transmitting v) _))) h
  | waitTxComplete timeoutMs =>
    exact finish_guarded (.gate (.bind (.of_quiet (doneLoop_all _ s)) afterDoneLoop_guarded)) h
  | requestDeviceState => exact finish_guarded (.gate (.result (.of_quiet (queryState_all s)) _)) h
  | fsk4Write buffer =>
    exact finish_guarded (.gate (.result (writeBytes_eq buffer s ▸ sendSymbols_guarded _ s) _)) h
  | fsk4WriteByte b => exact finish_guarded (.gate (.require ((sendSymbols_guarded _ s).result _))) h
  | fsk4Preamble n =>
    exact finish_guarded (.gate (.result (repeatByte_eq trainingByte n.toNat s ▸ sendSymbols_guarded _ s) _)) h
  | fsk4Idle => exact finish_guarded (.gate ((writeOffset_guarded 0 s).result _)) h
  | cwMark units =>
    exact finish_guarded (.gate ((commandState_guarded .transmitting s).bind fun _ _ =>
      .afterDelay ((commandState_guarded .ready _).result _))) h
  | cwSpace units => exact finish_guarded (.gate (.of_done (went_emit_dlyMs _ _ s) _)) h
  | configure | readContext | selectOutdiv | selectBand | calcDeviation | setReferenceClock => cases hi
  | wfSetProperty | wfPoll | wfResp | wfChangeState | wfFifoReset | wfIntStatus | wfWriteTxFifo | wfStartTx |
    wfReqState => cases hi

/-- CONFIGURE drives its power-up events and then sends guarded frames, unless its power check stops it
(45_system_configuration.md R165). -/
theorem exec_configure_guarded {cp : ChipParameters} {rp : RadioParameters} {s t : State}
    (h : exec (.configure cp rp) s = .next t) :
    (127 < rp.power.toNat ∧ t.trace = s.trace) ∨
      ∃ es, t.trace = s.trace ++ powerUpEvents s.cfg cp ++ es ∧ ctsGuarded s.cfg es = true := by
  by_cases hp : rp.power.toNat ≤ 127
  · rw [exec, execConfigure, require_pos hp, Ran.bind_done] at h
    exact .inr (finish_guarded ((configureWith_guarded cp rp s).result _) h)
  · rw [exec, execConfigure, require_neg hp, Ran.bind_raised] at h
    exact .inl ⟨by omega, (finish_silent (r := .raised .rangeFault s) ⟨rfl, rfl, rfl⟩ h).1⟩

/-- Settles O55: a gated operation's frames are guarded, CONFIGURE's are after its power-up, and no other operation
emits an event. -/
theorem commandsFollowAReadyPoll : Obligations.CommandsFollowAReadyPoll := by
  intro i s t hi h
  refine ⟨fun hs hc => ?_, ?_⟩
  · cases hg : gated i with
    | true => exact exec_gated_guarded hg hs h
    | false => exact ⟨[], by simpa using (exec_ungated hi hg hc h).1, ctsGuarded_nil _⟩
  · rintro cp rp rfl
    exact exec_configure_guarded h

end Sys2Proof.Machine
end

section
/-! # The encodings (30_encoding.md)

The wire frames as a reader of the trace tells them apart, and the two round trips of the decoder and the encoder. -/

namespace Sys2Proof

/-! ## The decoder of wire frames -/

/-- A frame reads nothing exactly when it is a list of written bytes (30_encoding.md R78). -/
theorem writtenBytes_eq_some {f : List Slot} {bs : List Byte} : writtenBytes f = some bs ↔ f = commandSlots bs := by
  induction f generalizing bs with
  | nil => cases bs <;> simp [writtenBytes, commandSlots]
  | cons slot f ih =>
    cases slot with
    | inn => cases bs <;> simp [writtenBytes, commandSlots]
    | out b =>
      cases bs with
      | nil => simp [writtenBytes, commandSlots]
      | cons c bs => simp [writtenBytes, ih, commandSlots, and_comm]

/-- A frame of written bytes is a command frame, told by its first byte (30_encoding.md R92). -/
theorem decodeWire_commandSlots (p : Params) (opcode : Byte) (payload : List Byte) :
    decodeWire p (commandSlots (opcode :: payload)) = decodeCommand p opcode payload := by
  have hw : writtenBytes (commandSlots (opcode :: payload)) = some (opcode :: payload) :=
    writtenBytes_eq_some.mpr rfl
  have hresp : ¬ (commandSlots (opcode :: payload)).all (· == .inn) = true := by simp [commandSlots]
  have hpoll : commandSlots (opcode :: payload) ≠ [.out p.wReadCmdBuff, .inn] := by
    intro h
    rw [h] at hw
    cases hw
  rw [decodeWire, if_neg hresp, if_neg hpoll, hw]

/-- All a frame that decodes can be: a response, the poll, or a command frame (30_encoding.md R92). -/
theorem decodeWire_cases {p : Params} {f : List Slot} {i : Instr} (h : decodeWire p f = .ok i) :
    (f = List.replicate f.length .inn ∧ i = .wfResp f.length) ∨
    (f = [.out p.wReadCmdBuff, .inn] ∧ i = .wfPoll) ∨
    ∃ opcode payload, f = commandSlots (opcode :: payload) ∧ decodeCommand p opcode payload = .ok i := by
  unfold decodeWire at h
  split at h
  next hall =>
    cases h
    exact .inl ⟨List.eq_replicate_of_mem (by simpa using hall), rfl⟩
  next =>
    split at h
    next hpoll =>
      cases h
      exact .inr (.inl ⟨hpoll, rfl⟩)
    next =>
      split at h
      next opcode payload hw => exact .inr (.inr ⟨opcode, payload, writtenBytes_eq_some.mp hw, h⟩)
      next => cases h

/-! ## State codes -/

theorem OpState.mem_all (t : OpState) : t ∈ OpState.all := by cases t <;> decide

/-- A state found by its code has that code (30_encoding.md R94). -/
theorem stateCode_of_stateOfCode {p : Params} {c : Byte} {t : OpState} (h : stateOfCode p c = some t) :
    p.stateCode t = c := by
  simpa using List.find?_some h

/-- Distinct state codes are read back (30_encoding.md R94). -/
theorem stateOfCode_stateCode {p : Params} (hp : (OpState.all.map p.stateCode).Nodup) (t : OpState) :
    stateOfCode p (p.stateCode t) = some t := by
  cases h : stateOfCode p (p.stateCode t) with
  | none => simpa using List.find?_eq_none.mp h t t.mem_all
  | some u => rw [List.inj_on_of_nodup_map hp u.mem_all t.mem_all (stateCode_of_stateOfCode h)]

/-! ## The payloads of the command frames -/

theorem decodeSetProperty_payload (p : Params) (group start : Byte) {values : List Byte} (h1 : 1 ≤ values.length)
    (h6 : values.length ≤ 6) :
    decodeSetProperty p (group :: BitVec.ofNat 8 values.length :: start :: values) =
      .ok (.wfSetProperty group start values) := by
  have hcount : (BitVec.ofNat 8 values.length).toNat = values.length := by
    rw [BitVec.toNat_ofNat]
    omega
  exact if_pos ⟨hcount, h1, h6⟩

theorem decodeChangeState_payload {p : Params} (hp : (OpState.all.map p.stateCode).Nodup) (t : OpState) :
    decodeChangeState p [p.stateCode t] = .ok (.wfChangeState t) := by
  simp [decodeChangeState, stateOfCode_stateCode hp]

/-- The big-endian halves of a word, put together again (20_memory.md R55). -/
theorem extractLsb'_append_extractLsb' (v : BitVec 16) : v.extractLsb' 8 8 ++ v.extractLsb' 0 8 = v := by
  rw [BitVec.extractLsb'_append_extractLsb'_eq_extractLsb' (by omega)]
  simp

theorem decodeStartTx_payload (p : Params) (total : BitVec 16) :
    decodeStartTx p [0x00#8, p.wTxCondSleep, total.extractLsb' 8 8, total.extractLsb' 0 8] =
      .ok (.wfStartTx total) := by
  simp [decodeStartTx, extractLsb'_append_extractLsb']

/-- The opcode of each command frame selects its payload's decoder, so long as the opcodes differ (log entry 16). -/
theorem decodeCommand_opcode {p : Params} (hp : p.OpcodesDistinct) :
    (∀ bs, decodeCommand p p.wSetProperty bs = decodeSetProperty p bs) ∧
    (∀ bs, decodeCommand p p.wChangeState bs = decodeChangeState p bs) ∧
    decodeCommand p p.wFifoInfo p.wFifoResetArg = .ok .wfFifoReset ∧
    decodeCommand p p.wGetIntStatus p.wIntClearPayload = .ok .wfIntStatus ∧
    (∀ bs, bs.length ≤ 64 → decodeCommand p p.wWriteTxFifo bs = .ok (.wfWriteTxFifo bs)) ∧
    (∀ bs, decodeCommand p p.wStartTx bs = decodeStartTx p bs) ∧
    decodeCommand p p.wRequestDeviceState [] = .ok .wfReqState := by
  have hne := List.nodup_reverse.mpr hp
  simp only [List.reverse_cons, List.reverse_nil, List.nil_append, List.cons_append, List.nodup_cons, List.mem_cons,
    not_or] at hne
  simp +contextual [decodeCommand, hne]

/-! ## Decoding what was encoded -/

/-- A well-formed instruction is read back from its code: a request through its OP value, a command frame through its
opcode and payload, the other two frames through the bytes they read (30_encoding.md R77, R79 to R87, R92). -/
theorem decode_encode {p : Params} {i : Instr} (ho : p.OpcodesDistinct) (hs : (OpState.all.map p.stateCode).Nodup)
    (hi : i.wellFormed = true) : decode p (encode p i) = .ok i := by
  have command {opcode : Byte} {payload : List Byte} {j : Instr} (h : decodeCommand p opcode payload = .ok j) :
      decode p (.wire (commandSlots (opcode :: payload))) = .ok j :=
    (decodeWire_commandSlots p opcode payload).trans h
  obtain ⟨setProperty, changeState, fifoReset, intStatus, writeTxFifo, startTx, reqState⟩ := decodeCommand_opcode ho
  cases i
  case wfSetProperty group start values =>
    obtain ⟨h1, h6⟩ := of_decide_eq_true hi
    exact command ((setProperty _).trans (decodeSetProperty_payload p group start h1 h6))
  case wfPoll => simp [encode, decode, decodeWire]
  case wfResp n => simp [encode, decode, decodeWire]
  case wfChangeState t => exact command ((changeState _).trans (decodeChangeState_payload hs t))
  case wfFifoReset => exact command fifoReset
  case wfIntStatus => exact command intStatus
  case wfWriteTxFifo bs => exact command (writeTxFifo bs (of_decide_eq_true hi))
  case wfStartTx total => exact command ((startTx _).trans (decodeStartTx_payload p total))
  case wfReqState => exact command reqState
  all_goals rfl

/-- Settles O7, by `decode_encode`. -/
theorem decodingAnEncodedInstructionGivesItBack : Obligations.DecodingAnEncodedInstructionGivesItBack :=
  fun _ _ ho hs hi => decode_encode ho hs hi

/-! ## Encoding what was decoded -/

theorem encode_of_decodeSetProperty {p : Params} {payload : List Byte} {i : Instr}
    (h : decodeSetProperty p payload = .ok i) : encode p i = .wire (commandSlots (p.wSetProperty :: payload)) := by
  unfold decodeSetProperty at h
  split at h
  next group count start values =>
    split_ifs at h with hc
    obtain ⟨hcount, -⟩ := hc
    cases h
    simp [encode, ← hcount]
  next => cases h

theorem encode_of_decodeChangeState {p : Params} {payload : List Byte} {i : Instr}
    (h : decodeChangeState p payload = .ok i) : encode p i = .wire (commandSlots (p.wChangeState :: payload)) := by
  unfold decodeChangeState at h
  split at h
  next c =>
    split at h
    next t ht =>
      cases h
      rw [encode, stateCode_of_stateOfCode ht]
    next => cases h
  next => cases h

theorem encode_of_decodeStartTx {p : Params} {payload : List Byte} {i : Instr}
    (h : decodeStartTx p payload = .ok i) : encode p i = .wire (commandSlots (p.wStartTx :: payload)) := by
  unfold decodeStartTx at h
  split at h
  next channel flag hi lo =>
    split_ifs at h with hc
    obtain ⟨rfl, rfl⟩ := hc
    cases h
    have hhi : (hi ++ lo).extractLsb' 8 8 = hi := BitVec.extractLsb'_append_eq_left
    have hlo : (hi ++ lo).extractLsb' 0 8 = lo := BitVec.extractLsb'_append_eq_right
    rw [encode, hhi, hlo]
  next => cases h

/-- A command frame that decodes is the frame of what it decodes to, whichever of the seven opcodes it begins with. -/
theorem encode_of_decodeCommand {p : Params} {opcode : Byte} {payload : List Byte} {i : Instr}
    (h : decodeCommand p opcode payload = .ok i) : encode p i = .wire (commandSlots (opcode :: payload)) := by
  unfold decodeCommand at h
  split_ifs at h with setProperty changeState fifoInfo resetArg intStatus clearPayload writeTxFifo fits startTx reqState
    empty
  · rw [setProperty, encode_of_decodeSetProperty h]
  · rw [changeState, encode_of_decodeChangeState h]
  · cases h
    rw [fifoInfo, resetArg, encode]
  · cases h
    rw [intStatus, clearPayload, encode]
  · cases h
    rw [writeTxFifo, encode]
  · rw [startTx, encode_of_decodeStartTx h]
  · cases h
    rw [reqState, empty, encode]

/-- Settles O8, by the three shapes of a frame that decodes. -/
theorem decodedFrameEncodesBack : Obligations.DecodedFrameEncodesBack := by
  intro p f i h
  obtain ⟨hf, rfl⟩ | ⟨rfl, rfl⟩ | ⟨opcode, payload, rfl, hc⟩ := decodeWire_cases h
  · rw [encode, ← hf]
  · rfl
  · exact encode_of_decodeCommand hc

end Sys2Proof
end

section
/-! # Operation codes, and wire frames run by themselves (30_encoding.md)

Which codes select an operation, what a step does with one that selects none, and each wire frame's bytes on the pins. -/

namespace Sys2Proof.Machine

/-! ## Operation codes -/

/-- A code that selects no operation is reserved (30_encoding.md R77, R91). -/
theorem decodeRequest_reserved {r : Request} (h : r.op ∉ operationCodes) :
    decodeRequest r = .error (.reservedOp r.op) := by
  unfold decodeRequest
  split
  -- the arm without a code of its own comes after the 28 with one
  case h_29 => rfl
  all_goals
    rename_i hop
    rw [hop] at h
    exact absurd (by decide) h

/-- Settles O4: each arm of the decoder, and `decodeRequest_reserved` for the codes without an arm. -/
theorem operationCodesSelectTheirOperation : Obligations.OperationCodesSelectTheirOperation := by
  intro r
  and_intros
  on_goal 29 => exact decodeRequest_reserved
  all_goals
    intro hop
    simp [decodeRequest, hop]

/-- Settles O5: the step refuses the request, by `step_error`. -/
theorem reservedCodeIsRefused : Obligations.ReservedCodeIsRefused :=
  fun _ _ _ hp hop => ⟨_, _, step_error hp (decodeRequest_reserved hop)⟩

/-- Settles O6: the decoder evaluated at the written-out words and frames. -/
theorem wordsOfTheTableDecode : Obligations.WordsOfTheTableDecode :=
  ⟨rfl, rfl, rfl, rfl, rfl, rfl, rfl, rfl, rfl, rfl⟩

/-! ## How a wire frame ends -/

/-- A frame that only writes joins the trace, releases the select pin and changes nothing else (log entry 13). -/
theorem exec_of_sendFrame {i : Instr} {s : State} {bytes : List Byte}
    (h : exec i s = finishFrame (.done none (sendFrame bytes s))) :
    exec i s = .next { s with trace := s.trace ++ frameW bytes, nsel := .high } := by
  rw [h, finishFrame, Ran.settleFrame_none, sendFrame_eq]

/-- A frame that raises a kind ends as an operation that raises it does (log entries 13, 14). -/
theorem Ends.of_frame_raised {i : Instr} {s t : State} {k : Kind} (h : exec i s = finishFrame (.raised k t)) :
    Ends i s k { t with lc := if losesConfiguration k then .uninitialized else t.lc } :=
  ⟨_, _, h⟩

/-! ## Command frames -/

theorem exec_wfSetProperty_inShape (g i : Byte) {vs : List Byte} (h : 1 ≤ vs.length ∧ vs.length ≤ 6) (s : State) :
    exec (.wfSetProperty g i vs) s =
      finishFrame (.done none (sendFrame (s.cfg.wSetProperty :: propPayload g i vs) s)) := by
  rw [exec, execWfSetProperty, require_pos h, Ran.bind_done]

theorem exec_wfSetProperty_outOfShape (g i : Byte) {vs : List Byte} (h : ¬ (1 ≤ vs.length ∧ vs.length ≤ 6))
    (s : State) : exec (.wfSetProperty g i vs) s = finishFrame (.raised .rangeFault s) := by
  rw [exec, execWfSetProperty, require_neg h, Ran.bind_raised]

theorem exec_wfChangeState (target : OpState) (s : State) :
    exec (.wfChangeState target) s =
      finishFrame (.done none (sendFrame [s.cfg.wChangeState, s.cfg.stateCode target] s)) := rfl

theorem exec_wfFifoReset (s : State) :
    exec .wfFifoReset s = finishFrame (.done none (sendFrame (s.cfg.wFifoInfo :: s.cfg.wFifoResetArg) s)) := rfl

theorem exec_wfWriteTxFifo_inShape {data : List Byte} (h : data.length ≤ 64) (s : State) :
    exec (.wfWriteTxFifo data) s = finishFrame (.done none (sendFrame (s.cfg.wWriteTxFifo :: data) s)) := by
  rw [exec, execWfWriteTxFifo, require_pos h, Ran.bind_done]

theorem exec_wfWriteTxFifo_outOfShape {data : List Byte} (h : ¬ data.length ≤ 64) (s : State) :
    exec (.wfWriteTxFifo data) s = finishFrame (.raised .rangeFault s) := by
  rw [exec, execWfWriteTxFifo, require_neg h, Ran.bind_raised]

theorem exec_wfStartTx (total : BitVec 16) (s : State) :
    exec (.wfStartTx total) s =
      finishFrame (.done none (sendFrame (s.cfg.wStartTx :: startTxPayload s.cfg total.toNat) s)) := rfl

/-- The big-endian total is the two halves of its word (20_memory.md R55). -/
theorem be2_toNat (v : BitVec 16) : be2 v.toNat = [v.extractLsb' 8 8, v.extractLsb' 0 8] := by
  have hhi : byteAt v.toNat 1 = v.extractLsb' 8 8 := by
    apply BitVec.eq_of_toNat_eq
    simp [byteAt, Nat.shiftRight_eq_div_pow]
  have hlo : byteAt v.toNat 0 = v.extractLsb' 0 8 := by
    apply BitVec.eq_of_toNat_eq
    simp [byteAt]
  rw [be2, hhi, hlo]

/-- Settles O42: each frame is `exec_of_sendFrame` with its bytes written out. -/
theorem commandFramesGoOutAsLaidOut : Obligations.CommandFramesGoOutAsLaidOut := by
  intro s
  refine ⟨fun g i vs h1 h6 => ?setProperty, fun target => ?changeState, ?fifoReset, fun data h => ?writeTxFifo,
    fun total => ?startTx⟩
  case setProperty =>
    rw [exec_of_sendFrame (exec_wfSetProperty_inShape g i ⟨h1, h6⟩ s)]
    simp [frameW, propPayload]
  case changeState => exact exec_of_sendFrame (exec_wfChangeState target s)
  case fifoReset =>
    rw [exec_of_sendFrame (exec_wfFifoReset s)]
    simp [frameW]
  case writeTxFifo =>
    rw [exec_of_sendFrame (exec_wfWriteTxFifo_inShape h s)]
    simp [frameW]
  case startTx =>
    rw [exec_of_sendFrame (exec_wfStartTx total s), startTxPayload, be2_toNat]
    rfl

/-- Settles O45: the count check fails before any event. -/
theorem framesOutOfShapeSendNothing : Obligations.FramesOutOfShapeSendNothing :=
  ⟨fun s g i _ h => Ends.of_frame_raised (exec_wfSetProperty_outOfShape g i (by omega) s),
    fun s _ h => Ends.of_frame_raised (exec_wfWriteTxFifo_outOfShape (by omega) s)⟩

/-! ## Reading frames -/

/-- Settles O43: the poll and the response read the bytes the chip is known to answer. -/
theorem readingFramesReadTheirBytes : Obligations.ReadingFramesReadTheirBytes := by
  refine fun s rest => ⟨fun b h => ?poll, fun bs h => ?response⟩
  case poll =>
    rw [exec, execWfPoll, pollFrame_cons h]
    simp [finishFrame, State.ran, framePoll]
  case response =>
    rw [exec, execWfResp, respFrame_append h]
    simp [finishFrame, State.ran, frameR]

/-! ## Exchanges -/

/-- What WF_INT_STATUS and WF_REQ_STATE have in common: a command frame, then a wait and a response of `n` bytes
(30_encoding.md R84, R87). -/
def exchange (command : List Byte) (n : Nat) (s : State) : Ran (Option (List Byte)) :=
  (readResponse n s.cfg.ctsLimit (sendFrame command s)).bind fun bs t => .done (some bs) t

theorem exec_wfIntStatus (s : State) :
    exec .wfIntStatus s = finishFrame (exchange (s.cfg.wGetIntStatus :: s.cfg.wIntClearPayload) 7 s) := rfl

theorem exec_wfReqState (s : State) :
    exec .wfReqState s = finishFrame (exchange [s.cfg.wRequestDeviceState] s.cfg.wRdsRespLen s) := rfl

/-- A command frame as a run of events that reads nothing. -/
theorem sendFrame_eq_ran (bytes : List Byte) (s : State) : sendFrame bytes s = s.ran (frameW bytes) s.rx := by
  simp [sendFrame_eq, State.ran, frameW_ne_nil]

/-- An exchange whose wait is answered (40_bus_transport.md R102). -/
theorem exchange_answered {s : State} {w bs rest : List Byte} {n : Nat} (command : List Byte)
    (hw : AnsweredWithin s.cfg.ctsLimit w) (hn : bs.length = n) (h : s.rx = w ++ 0xFF#8 :: (bs ++ rest)) :
    exchange command n s = .done (some bs) (s.ran (frameW command ++ answered s.cfg w ++ frameR bs) rest) := by
  rw [exchange, sendFrame_eq_ran, readResponse_answered (s := s.ran _ s.rx) hw hn h, Ran.bind_done,
    State.ran_ran, State.ran_cfg, List.append_assoc]

/-- An exchange whose wait times out (40_bus_transport.md R102). -/
theorem exchange_never {s : State} {w rest : List Byte} (command : List Byte) (n : Nat)
    (hw : NeverAnswered s.cfg.ctsLimit w) (h : s.rx = w ++ rest) :
    exchange command n s = .raised .busTimeout (s.ran (frameW command ++ polls s.cfg w) rest) := by
  rw [exchange, sendFrame_eq_ran, readResponse_never (s := s.ran _ s.rx) hw h, Ran.bind_raised,
    State.ran_ran, State.ran_cfg]

/-- Settles O44, by the two ends of `exchange`. -/
theorem exchangesReadTheirResponse : Obligations.ExchangesReadTheirResponse := by
  intro i s command n hi
  have hexec : exec i s = finishFrame (exchange command n s) := by
    obtain ⟨rfl, rfl, rfl⟩ | ⟨rfl, rfl, rfl⟩ := hi
    · exact exec_wfIntStatus s
    · exact exec_wfReqState s
  refine ⟨fun w bs rest hw hn hrx => ?answered, fun w rest hw hrx => ?timedOut⟩
  case answered =>
    rw [hexec, exchange_answered command hw hn (by simpa using hrx)]
    rfl
  case timedOut =>
    exact Ends.of_frame_raised (by rw [hexec, exchange_never command n hw hrx])

end Sys2Proof.Machine
end

section
/-! # Bus transport (40_bus_transport.md)

The raw command frame, the clear-to-send wait and the response read, each run as one host operation: refused while LC is
Uninitialized, and otherwise the run of its body. -/

namespace Sys2Proof.Machine

/-! ## The operations past their lifecycle check -/

/-- Where LC is not Uninitialized the lifecycle check lets the operation run (60_exceptions.md R189). -/
theorem requireUp_bind_up {α : Type} {s : State} (h : s.lc ≠ .uninitialized) (f : Unit → State → Ran α) :
    (requireUp s).bind f = f () s := by
  rw [requireUp_up h, Ran.bind_done]

theorem exec_sendCommand_up {s : State} (h : s.lc ≠ .uninitialized) (opcode : Word) (payload : List Byte) :
    exec (.sendCommand opcode payload) s =
      finish ((require (opcode.toNat < 256) .rangeFault s).bind fun _ s =>
        .done {} (sendFrame (opcode.setWidth 8 :: payload) s)) := by
  rw [exec, execSendCommand, requireUp_bind_up h]

theorem exec_waitCts_up {s : State} (h : s.lc ≠ .uninitialized) (limit : Word) :
    exec (.waitCts limit) s = finish ((waitLoop limit.toNat s).bind fun _ s => .done {} s) := by
  rw [exec, execWaitCts, requireUp_bind_up h]

theorem exec_readResponse_up {s : State} (h : s.lc ≠ .uninitialized) (length limit : Word) :
    exec (.readResponse length limit) s =
      finish ((readResponse length.toNat limit.toNat s).bind fun bs s => .done { resp := some bs } s) := by
  rw [exec, execReadResponse, requireUp_bind_up h]

/-! ## The obligations -/

/-- Settles O21: the opcode's range check, and past it one command frame (`sendFrame_eq`). -/
theorem sendCommandSendsItsFrame : Obligations.SendCommandSendsItsFrame := by
  refine fun opcode payload => ⟨fun r hop => ?selected, RefusedWhenDown.of_gate fun _ => rfl,
    fun s hs hop => ?outOfRange, fun s hs hop => ?sent⟩
  case selected => simp [decodeRequest, hop]
  case outOfRange =>
    refine Ends.of_raised (exec_sendCommand_up hs opcode payload) rfl ?_
    rw [require_neg (by omega), Ran.bind_raised]
  case sent =>
    refine Ends.of_done (exec_sendCommand_up hs opcode payload) ?_
    rw [require_pos hop, Ran.bind_done, sendFrame_eq]
    simp [frameW]

/-- Settles O22, by the two ends of the wait: `waitLoop_answered` and `waitLoop_never`. -/
theorem waitCtsPollsUpToItsLimit : Obligations.WaitCtsPollsUpToItsLimit := by
  refine fun limit => ⟨fun r hop => ?selected, RefusedWhenDown.of_gate fun _ => rfl,
    fun s w rest hs hw hrx => ?answered, fun s w rest hs hw hrx => ?timedOut⟩
  case selected => simp [decodeRequest, hop]
  case answered =>
    refine Ends.of_done (exec_waitCts_up hs limit) ?_
    rw [waitLoop_answered hw hrx, Ran.bind_done]
  case timedOut =>
    refine Ends.of_lost (exec_waitCts_up hs limit) rfl ?_
    rw [waitLoop_never hw hrx, Ran.bind_raised]

/-- Settles O23, by the two ends of the read: `readResponse_answered`, whose bytes go to RESP, and
`readResponse_never`. -/
theorem readResponseStreamsItsBytes : Obligations.ReadResponseStreamsItsBytes := by
  refine fun length limit => ⟨fun r hop => ?selected, RefusedWhenDown.of_gate fun _ => rfl,
    fun s w bs rest hs hw hn hrx => ?answered, fun s w rest hs hw hrx => ?timedOut⟩
  case selected => simp [decodeRequest, hop]
  case answered =>
    refine ⟨Config.freeRet s.ended, ?_⟩
    rw [exec_readResponse_up hs, readResponse_answered hw hn hrx, Ran.bind_done]
    simp [finish, State.returnOk, frameR]
  case timedOut =>
    refine Ends.of_lost (exec_readResponse_up hs length limit) rfl ?_
    rw [readResponse_never hw hrx, Ran.bind_raised]

end Sys2Proof.Machine
end

section
/-! # State controller (41_state_controller.md)

SET_STATE and the three operations that are SET_STATE of one state: they run one body, `stateOperation`, which is refused
while LC is Uninitialized and otherwise is one guarded change-state frame and a write of LC. -/

namespace Sys2Proof.Machine

/-- Past its lifecycle check a state operation is one guarded frame, then the write of LC (41_state_controller.md
R110). -/
theorem stateOperation_up {s : State} (h : s.lc ≠ .uninitialized) (target : OpState) :
    stateOperation target s =
      (issue s.cfg.wChangeState [s.cfg.stateCode target] s).bind fun _ t => .done {} (t.setLc (lifecycleOf target)) := by
  rw [stateOperation, requireUp_bind_up h, commandState, Ran.bind_assoc]
  rfl

/-- An operation that runs the body of SET_STATE sends its target's change-state frame (41_state_controller.md R110). -/
theorem SendsOneFrame.of_stateOperation {i : Instr} {target : OpState} {s : State}
    (h : exec i s = finish (stateOperation target s)) (hs : s.lc ≠ .uninitialized) :
    SendsOneFrame i s [s.cfg.wChangeState, s.cfg.stateCode target] id
      (fun t => { t with lc := if target = .transmitting then .transmitting else .idle }) :=
  .of_issue h (stateOperation_up hs target) rfl rfl

/-- Settles O24: each of the four operations runs the body of SET_STATE at its target. -/
theorem stateOperationsSendTheirCode : Obligations.StateOperationsSendTheirCode := by
  refine ⟨?setState, ?enableTx, ?inhibitTx, ?disableTx, fun i target hi => ?body⟩
  case body =>
    have hexec : ∀ s, exec i s = finish (stateOperation target s) := by
      obtain rfl | ⟨rfl, rfl⟩ | ⟨rfl, rfl⟩ | ⟨rfl, rfl⟩ := hi
      all_goals exact fun _ => rfl
    exact ⟨.of_gate hexec, fun s hs => .of_stateOperation (hexec s) hs⟩
  all_goals
    intro r hop
    simp [decodeRequest, hop]

end Sys2Proof.Machine
end

section
/-! # The arithmetic of the frequency synthesizer (42_frequency_synthesizer.md)

The band table, the fractional-N calculation and the deviation calculation over the naturals, and from them what they are
over the rationals and how wide they get. -/

namespace Sys2Proof.Machine

/-! ## The band table -/

/-- The divider and the band code come from the row of the index (42_frequency_synthesizer.md R120). -/
theorem row_of_bandIdx {f : Nat} {k : Fin 6} (h : bandIdx f = k) :
    bandIdx f = k ∧ outdivOf f = outdivTable.get k ∧ bandOf f = bandTable.get k := by
  simp only [outdivOf, bandOf, h, true_and]

/-- Settles O10: each interval fixes the index, which fixes the row. -/
theorem bandTableRows : Obligations.BandTableRows := by
  refine fun f => ⟨fun hi => row_of_bandIdx (k := 0) ?_, fun lo hi => row_of_bandIdx (k := 1) ?_,
    fun lo hi => row_of_bandIdx (k := 2) ?_, fun lo hi => row_of_bandIdx (k := 3) ?_,
    fun lo hi => row_of_bandIdx (k := 4) ?_, fun lo => row_of_bandIdx (k := 5) ?_⟩
  · rw [bandIdx, if_pos hi]
  · rw [bandIdx, if_neg (by omega), if_pos hi]
  · rw [bandIdx, if_neg (by omega), if_neg (by omega), if_pos hi]
  · rw [bandIdx, if_neg (by omega), if_neg (by omega), if_neg (by omega), if_pos hi]
  · rw [bandIdx, if_neg (by omega), if_neg (by omega), if_neg (by omega), if_neg (by omega), if_pos hi]
  · rw [bandIdx, if_neg (by omega), if_neg (by omega), if_neg (by omega), if_neg (by omega), if_neg (by omega)]

/-- The divider as the chain of thresholds (42_frequency_synthesizer.md R121). -/
theorem outdivOf_eq (f : Nat) :
    outdivOf f = if f < 177000000 then 24 else if f < 239000000 then 16 else if f < 353000000 then 12
      else if f < 525000000 then 8 else if f < 705000000 then 6 else 4 := by
  unfold outdivOf bandIdx
  split_ifs <;> rfl

/-- The band code as the chain of thresholds (42_frequency_synthesizer.md R122). -/
theorem bandOf_eq (f : Nat) :
    bandOf f = if f < 177000000 then 5 else if f < 239000000 then 4 else if f < 353000000 then 3
      else if f < 525000000 then 2 else if f < 705000000 then 1 else 0 := by
  unfold bandOf bandIdx
  split_ifs <;> rfl

/-- Every divider of the table is from 4 to 24 (42_frequency_synthesizer.md R120). -/
theorem outdivOf_bounds (f : Nat) : 4 ≤ outdivOf f ∧ outdivOf f ≤ 24 := by
  have hrows : ∀ k, 4 ≤ outdivTable.get k ∧ outdivTable.get k ≤ 24 := by decide
  exact hrows (bandIdx f)

/-! ## PLLCALC over the rationals

With `q` and `r` the quotient and the remainder of `freq` by `f_pfd`, `n` is `q - 1` and `m` is `2^19` plus the quotient
of `r * 2^19`: the fraction `r / f_pfd` is all that the pair rounds. -/

theorem pllCalc_n_add_one (f ref : Nat) :
    (pllCalc f ref).n + 1 = ((f / (pllCalc f ref).fPfd : Nat) : Int) := by
  simp [pllCalc]

theorem pllCalc_m (f ref : Nat) :
    (pllCalc f ref).m = 2 ^ 19 + f % (pllCalc f ref).fPfd * 2 ^ 19 / (pllCalc f ref).fPfd := rfl

/-- A frequency is `n + 1` times `f_pfd` and the remainder. -/
theorem freq_eq_pllCalc (f ref : Nat) :
    (f : ℚ) = ((pllCalc f ref).n + 1) * (pllCalc f ref).fPfd + (f % (pllCalc f ref).fPfd : Nat) := by
  have hn : ((pllCalc f ref).n : ℚ) + 1 = (f / (pllCalc f ref).fPfd : Nat) := by
    rw [← Int.cast_natCast, ← pllCalc_n_add_one, Int.cast_add, Int.cast_one]
  rw [hn, mul_comm]
  exact_mod_cast (Nat.div_add_mod f (pllCalc f ref).fPfd).symm

/-- Settles O11: the quotients of naturals are floors, and the scaled fraction is `2^19` and the scaled remainder. -/
theorem pllValuesAreTheExactQuotients : Obligations.PllValuesAreTheExactQuotients := by
  intro f ref hp v
  have hp0 : (v.fPfd : ℚ) ≠ 0 := by exact_mod_cast hp.ne'
  have hscaled : ((f : ℚ) / v.fPfd - v.n) * 2 ^ 19 =
      (2 ^ 19 : Nat) + ((f % v.fPfd * 2 ^ 19 : Nat) : ℚ) / v.fPfd := by
    rw [freq_eq_pllCalc f ref]
    push_cast
    field_simp
    ring
  refine ⟨rfl, rfl, ?fPfd, ?n, ?m⟩
  case fPfd => exact_mod_cast (Rat.floor_natCast_div_natCast (2 * ref) v.outdiv).symm
  case n =>
    rw [Rat.floor_natCast_div_natCast, eq_sub_iff_add_eq]
    exact_mod_cast pllCalc_n_add_one f ref
  case m =>
    rw [hscaled, Int.floor_natCast_add, Rat.floor_natCast_div_natCast, pllCalc_m]
    push_cast
    rfl

/-- `n` is out of its byte below one `f_pfd` and from 257 of them (42_frequency_synthesizer.md R132). -/
theorem pllCalc_n_outOfByte {f ref : Nat} (hp : 0 < (pllCalc f ref).fPfd) :
    ((pllCalc f ref).n < 0 ↔ f < (pllCalc f ref).fPfd) ∧
      (255 < (pllCalc f ref).n ↔ 257 * (pllCalc f ref).fPfd ≤ f) := by
  have hn := pllCalc_n_add_one f ref
  rw [← Nat.div_eq_zero_iff_lt hp, ← Nat.le_div_iff_mul_le hp]
  generalize f / (pllCalc f ref).fPfd = q at hn
  omega

/-- What `m` adds to `2^19` is the remainder scaled by `2^19`, to within one `f_pfd` (42_frequency_synthesizer.md
R133). -/
theorem pllCalc_m_bounds {f ref : Nat} (hp : 0 < (pllCalc f ref).fPfd) :
    ((pllCalc f ref).m - 2 ^ 19 : ℚ) * (pllCalc f ref).fPfd ≤ (f % (pllCalc f ref).fPfd : Nat) * 2 ^ 19 ∧
      ((f % (pllCalc f ref).fPfd : Nat) * 2 ^ 19 : ℚ) < (pllCalc f ref).fPfd * ((pllCalc f ref).m - 2 ^ 19 + 1) := by
  have hm : ((pllCalc f ref).m - 2 ^ 19 : ℚ) =
      (f % (pllCalc f ref).fPfd * 2 ^ 19 / (pllCalc f ref).fPfd : Nat) := by
    rw [pllCalc_m, Nat.cast_add, Nat.cast_pow, Nat.cast_ofNat, add_sub_cancel_left]
  rw [hm]
  constructor
  · exact_mod_cast Nat.div_mul_le_self _ _
  · exact_mod_cast Nat.lt_mul_div_succ _ hp

/-- `m` keeps bit 19 set and fits 20 bits, the remainder being less than `f_pfd` (42_frequency_synthesizer.md R133). -/
theorem pllCalc_m_range {f ref : Nat} (hp : 0 < (pllCalc f ref).fPfd) :
    2 ^ 19 ≤ (pllCalc f ref).m ∧ (pllCalc f ref).m < 2 ^ 20 := by
  have hr : f % (pllCalc f ref).fPfd < (pllCalc f ref).fPfd := Nat.mod_lt f hp
  have hk : f % (pllCalc f ref).fPfd * 2 ^ 19 / (pllCalc f ref).fPfd < 2 ^ 19 := Nat.div_lt_of_lt_mul (by omega)
  rw [pllCalc_m]
  exact ⟨Nat.le_add_right _ _, by linarith⟩

/-- Settles O12: `n + 1` is the quotient of the frequency, and `m` that of the scaled remainder, each to within one
`f_pfd`. -/
theorem pllPairEncodesTheRatio : Obligations.PllPairEncodesTheRatio := by
  intro f ref hp v
  have hn : v.n + 1 = ((f / v.fPfd : Nat) : Int) := pllCalc_n_add_one f ref
  have hm : v.m = 2 ^ 19 + f % v.fPfd * 2 ^ 19 / v.fPfd := pllCalc_m f ref
  have hf : (f : ℚ) = (v.n + 1) * v.fPfd + (f % v.fPfd : Nat) := freq_eq_pllCalc f ref
  obtain ⟨hlo, hhi⟩ := pllCalc_m_bounds hp
  refine ⟨⟨?lower, ?upper⟩, ?fraction, ⟨?below, ?above⟩, pllCalc_m_range hp, fun h0 => ?exact,
    pllCalc_n_outOfByte hp⟩
  case lower =>
    rw [hn]
    exact_mod_cast Nat.div_mul_le_self f v.fPfd
  case upper =>
    have hn2 : v.n + 2 = ((f / v.fPfd + 1 : Nat) : Int) := by push_cast; omega
    rw [hn2, mul_comm]
    exact_mod_cast Nat.lt_mul_div_succ f hp
  case fraction =>
    have hfrac : 2 ^ 19 * ((f : ℚ) - (v.n + 1) * v.fPfd) = (f % v.fPfd * 2 ^ 19 : Nat) := by
      rw [hf]
      push_cast
      ring
    rw [hfrac, Rat.floor_natCast_div_natCast, hm]
    push_cast
    ring
  case below =>
    rw [hf]
    linarith
  case above =>
    rw [hf]
    linarith
  case exact => simpa [h0] using hm

/-! ## DEVCALC -/

/-- Settles O14: the quotient of naturals is the floor, and it grows with its dividend. -/
theorem deviationIsTheExactQuotient : Obligations.DeviationIsTheExactQuotient := by
  refine fun ref _ => ⟨fun d o => ?floor, fun o => ?zero, fun d d' o hd => ?deviation, fun d o o' ho => ?divider⟩
  case floor => exact_mod_cast (Rat.floor_natCast_div_natCast (2 ^ 19 * o * d) (2 * ref)).symm
  case zero => simp [devCalc]
  case deviation => exact Nat.div_le_div_right (Nat.mul_le_mul_left _ hd)
  case divider => exact Nat.div_le_div_right (Nat.mul_le_mul_right _ (Nat.mul_le_mul_left _ ho))

/-! ## Widths -/

/-- The dividend of DEVCALC at its greatest operands (42_frequency_synthesizer.md R131). -/
theorem deviationProduct_le {d o : Nat} (hd : d < 2 ^ 32) (ho : o ≤ 24) :
    2 ^ 19 * o * d ≤ 2 ^ 19 * 24 * (2 ^ 32 - 1) :=
  Nat.mul_le_mul (Nat.mul_le_mul_left _ ho) (by omega)

/-- The result of DEVCALC fits RET (42_frequency_synthesizer.md R127, R131). -/
theorem devCalc_lt {d o ref : Nat} (hd : d < 2 ^ 32) (ho : o ≤ 24) (hr : 26000000 ≤ ref) : devCalc d o ref < 2 ^ 30 := by
  have hprod := deviationProduct_le hd ho
  refine Nat.div_lt_of_lt_mul ?_
  omega

/-- `f_pfd` for the clocks REFCLK can hold (42_frequency_synthesizer.md R131). -/
theorem fPfdOf_bounds (f : Nat) {ref : Nat} (hlo : 26000000 ≤ ref) (hhi : ref ≤ 29999999) :
    2166666 ≤ fPfdOf f ref ∧ fPfdOf f ref ≤ 14999999 := by
  obtain ⟨ho4, ho24⟩ := outdivOf_bounds f
  constructor
  · calc 2166666 = 52000000 / 24 := rfl
      _ ≤ 2 * ref / outdivOf f := Nat.div_le_div (by omega) ho24 (by omega)
  · calc fPfdOf f ref ≤ 59999998 / 4 := Nat.div_le_div (by omega) ho4 (by omega)
      _ = 14999999 := rfl

/-- Settles O13, by the bounds of the divider, of `f_pfd` and of the deviation product. -/
theorem synthesizerWidths : Obligations.SynthesizerWidths := by
  intro f ref d c hlo hhi hf hd
  obtain ⟨hplo, hphi⟩ := fPfdOf_bounds f hlo hhi
  have ho := (outdivOf_bounds c).2
  have hrem : f % fPfdOf f ref < fPfdOf f ref := Nat.mod_lt f (by omega)
  have hprod := deviationProduct_le hd ho
  refine ⟨by omega, by omega, hplo, hphi, by omega, ?quotient, by omega, devCalc_lt hd ho hlo⟩
  case quotient =>
    calc f / fPfdOf f ref ≤ (2 ^ 32 - 1) / 2166666 := Nat.div_le_div (by omega) hplo (by omega)
      _ = 1982 := rfl

end Sys2Proof.Machine
end

section
/-! # The operations of the frequency synthesizer (42_frequency_synthesizer.md)

Four operations send nothing and run in any LC. The other three are refused while LC is Uninitialized, make their checks
before any event, and end in guarded property frames. -/

namespace Sys2Proof.Machine

/-! ## Operations that send nothing -/

theorem selectOutdiv_returns (f : Word) (s : State) :
    Returns (.selectOutdiv f) s (BitVec.ofNat 32 (outdivOf f.toNat)) s :=
  Returns.of_done (r := .done { ret := retWord (outdivOf f.toNat) } s) rfl rfl

theorem selectBand_returns (f : Word) (s : State) :
    Returns (.selectBand f) s (BitVec.ofNat 32 (bandOf f.toNat)) s :=
  Returns.of_done (r := .done { ret := retWord (bandOf f.toNat) } s) rfl rfl

/-- Settles O25: the value returned is the table's entry, put into 32 bits. -/
theorem selectorsReturnTheirRow : Obligations.SelectorsReturnTheirRow := by
  refine ⟨fun r hop => ?outdivSelected, fun r hop => ?bandSelected, fun f s => ⟨?outdiv, ?band⟩⟩
  case outdivSelected => simp [decodeRequest, hop]
  case bandSelected => simp [decodeRequest, hop]
  case outdiv => simpa [outdivOf_eq, apply_ite (BitVec.ofNat 32)] using selectOutdiv_returns f s
  case band => simpa [bandOf_eq, apply_ite (BitVec.ofNat 32)] using selectBand_returns f s

/-- Settles O27: DEVCALC fits RET for every clock REFCLK can hold (`devCalc_lt`). -/
theorem calcDeviationReturnsTheValue : Obligations.CalcDeviationReturnsTheValue := by
  refine ⟨fun r hop => ?selected, fun d s => ⟨fun hc => ?unwritten, fun c hc hclk => ?value⟩⟩
  case selected => simp [decodeRequest, hop]
  case unwritten =>
    exact Ends.of_raised (r := .raised .unwritten s) (by simp only [exec, execCalcDeviation, hc]) rfl rfl
  case value =>
    refine ⟨BitVec.ofNat 32 (devCalc d.toNat (outdivOf c.toNat) s.refclk.toNat), ?_,
      Returns.of_done (by simp only [exec, execCalcDeviation, hc, retWord]) rfl⟩
    have hlt := devCalc_lt d.isLt (outdivOf_bounds c.toNat).2 hclk
    rw [BitVec.toNat_ofNat, Nat.mod_eq_of_lt (by omega)]

/-- Settles O29: the range check, and past it the write of REFCLK. -/
theorem setReferenceClockChecksItsRange : Obligations.SetReferenceClockChecksItsRange := by
  refine ⟨fun r hop => ?selected, fun hz s => ⟨fun hlo hhi => ?stored, fun hout => ?rejected⟩⟩
  case selected => simp [decodeRequest, hop]
  case stored =>
    exact Ends.of_done (t := s.setRefclk hz) rfl (by rw [require_pos ⟨hlo, hhi⟩, Ran.bind_done])
  case rejected =>
    exact Ends.of_raised rfl rfl (by rw [require_neg (by omega), Ran.bind_raised])

/-! ## The gated operations past their lifecycle check -/

theorem exec_setTxFrequency_up {s : State} (h : s.lc ≠ .uninitialized) (f : Word) :
    exec (.setTxFrequency f) s = finish ((tuneTo f s).bind fun _ s => .done {} s) := by
  rw [exec, execSetTxFrequency, requireUp_bind_up h]

theorem exec_setDeviation_up {s : State} (h : s.lc ≠ .uninitialized) (d : Word) :
    exec (.setDeviation d) s = finish ((deviateBy d s).bind fun _ s => .done {} s) := by
  rw [exec, execSetDeviation, requireUp_bind_up h]

theorem exec_setFrequencyOffset_up {s : State} (h : s.lc ≠ .uninitialized) (offset : Word) :
    exec (.setFrequencyOffset offset) s = finish ((writeOffset offset.toNat s).bind fun _ s => .done {} s) := by
  rw [exec, execSetFrequencyOffset, requireUp_bind_up h]

/-! ## SET_TX_FREQUENCY -/

/-- A frequency set with no deviation to keep (42_frequency_synthesizer.md R125). -/
theorem tuneTo_unwritten {s : State} (f : Word) (hd : s.deviation = none) : tuneTo f s = .raised .unwritten s := by
  simp only [tuneTo, hd]

/-- Settles O26, by the four ends of the frequency set. -/
theorem setTxFrequencyTunesTheChip : Obligations.SetTxFrequencyTunesTheChip := by
  refine fun f => ⟨fun r hop => ?selected, RefusedWhenDown.of_gate fun _ => rfl, fun s hs hd => ?unwritten,
    fun s d hs hd ht => ?outOfRange, fun s d ws rest hs hd ht hl hw hrx => ?answered,
    fun s d ws w rest hs hd ht hl hw hn hrx => ?timedOut⟩
  case selected => simp [decodeRequest, hop]
  case unwritten =>
    refine Ends.of_raised (exec_setTxFrequency_up hs f) rfl ?_
    rw [tuneTo_unwritten f hd, Ran.bind_raised]
  case outOfRange =>
    refine Ends.of_raised (exec_setTxFrequency_up hs f) rfl ?_
    rw [tuneTo_outOfRange hd ht, Ran.bind_raised]
  case answered =>
    refine Ends.of_done (exec_setTxFrequency_up hs f) ?_
    rw [tuneTo_answered hd ht hl hw hrx, Ran.bind_done]
  case timedOut =>
    have hr := exec_setTxFrequency_up hs f
    rw [tuneTo_never hd ht hl hw hn hrx, Ran.bind_raised] at hr
    exact Ends.of_lost hr rfl rfl

/-! ## SET_DEVIATION -/

/-- A deviation set with no carrier set (42_frequency_synthesizer.md R128). -/
theorem deviateBy_unwritten {s : State} (d : Word) (hc : s.carrier = none) : deviateBy d s = .raised .unwritten s := by
  simp only [deviateBy, hc]

/-- A deviation set out of range (42_frequency_synthesizer.md R128). -/
theorem deviateBy_outOfRange {s : State} {c d : Word} (hc : s.carrier = some c)
    (h : 2 ^ 24 ≤ devCalc d.toNat (outdivOf c.toNat) s.refclk.toNat) : deviateBy d s = .raised .rangeFault s := by
  simp only [deviateBy, hc]
  rw [require_neg (by omega), Ran.bind_raised]

/-- A deviation set in range: the register, then the frame (42_frequency_synthesizer.md R128). -/
theorem deviateBy_inRange {s : State} {c d : Word} (hc : s.carrier = some c)
    (h : devCalc d.toNat (outdivOf c.toNat) s.refclk.toNat < 2 ^ 24) :
    deviateBy d s =
      issue s.cfg.wSetProperty
        (propPayload s.cfg.wGDev s.cfg.wIDev (be3 (devCalc d.toNat (outdivOf c.toNat) s.refclk.toNat)))
        (s.setDeviation d) := by
  simp only [deviateBy, hc]
  rw [require_pos h, Ran.bind_done]
  rfl

/-- Settles O28, by the three ends of the deviation set; the one in range is a guarded frame. -/
theorem setDeviationStoresAndSends : Obligations.SetDeviationStoresAndSends := by
  refine fun d => ⟨fun r hop => ?selected, RefusedWhenDown.of_gate fun _ => rfl, fun s hs hc => ?unwritten,
    fun s c hs hc hdev => ?outOfRange, fun s c hs hc hdev => ?sent⟩
  case selected => simp [decodeRequest, hop]
  case unwritten =>
    refine Ends.of_raised (exec_setDeviation_up hs d) rfl ?_
    rw [deviateBy_unwritten d hc, Ran.bind_raised]
  case outOfRange =>
    refine Ends.of_raised (exec_setDeviation_up hs d) rfl ?_
    rw [deviateBy_outOfRange hc hdev, Ran.bind_raised]
  case sent =>
    have hr := exec_setDeviation_up hs d
    rw [deviateBy_inRange hc hdev] at hr
    exact SendsOneFrame.of_issue hr rfl rfl rfl

/-! ## SET_FREQUENCY_OFFSET -/

/-- A byte of a value, as bits of the word that holds it (00_scope.md R10). -/
theorem byteAt_toNat_word (v : Word) (k : Nat) : byteAt v.toNat k = v.extractLsb' (8 * k) 8 := by
  apply BitVec.eq_of_toNat_eq
  simp [byteAt, Nat.shiftRight_eq_div_pow]

theorem writeOffset_outOfRange {offset : Nat} (s : State) (h : 2 ^ 16 ≤ offset) :
    writeOffset offset s = .raised .rangeFault s := by
  rw [writeOffset, require_neg (by omega), Ran.bind_raised]

theorem writeOffset_inRange {offset : Nat} (s : State) (h : offset < 2 ^ 16) :
    writeOffset offset s =
      issue s.cfg.wSetProperty (propPayload s.cfg.wGOffset s.cfg.wIOffset (be2 offset)) s := by
  rw [writeOffset, require_pos h, Ran.bind_done, propWrite]

/-- Settles O30: out of range before any event, and otherwise one guarded frame. -/
theorem setFrequencyOffsetSendsTheOffset : Obligations.SetFrequencyOffsetSendsTheOffset := by
  refine fun offset => ⟨fun r hop => ?selected, RefusedWhenDown.of_gate fun _ => rfl, fun s hs ho => ?outOfRange,
    fun s hs ho => ?sent⟩
  case selected => simp [decodeRequest, hop]
  case outOfRange =>
    refine Ends.of_raised (exec_setFrequencyOffset_up hs offset) rfl ?_
    rw [writeOffset_outOfRange s ho, Ran.bind_raised]
  case sent =>
    have hr := exec_setFrequencyOffset_up hs offset
    rw [writeOffset_inRange s ho, be2, byteAt_toNat_word, byteAt_toNat_word] at hr
    exact SendsOneFrame.of_issue hr rfl rfl rfl

end Sys2Proof.Machine
end

section
/-! # FIFO TX engine (43_fifo_tx_engine.md)

The underflow check and the two operations that begin with it; the device-state query and the operation that repeats it.
CLEAR_FIFO and START_TX are the underflow check and then guarded command frames; WAIT_TX_COMPLETE is a loop of queries
and, when none saw a done state, a state command. -/

namespace Sys2Proof.Machine

/-! ## Operations that begin with the underflow check -/

/-- An underflow check whose first wait times out (43_fifo_tx_engine.md R140). -/
theorem checkUnderflow_never {s : State} {w rest : List Byte} (hw : NeverAnswered s.cfg.ctsLimit w)
    (hx : s.rx = w ++ rest) : checkUnderflow s = .raised .busTimeout (s.ran (polls s.cfg w) rest) := by
  rw [checkUnderflow, issueR_never _ _ _ hw hx, Ran.bind_raised]

/-- An underflow check whose second wait times out (43_fifo_tx_engine.md R140). -/
theorem checkUnderflow_half {s : State} {w1 w rest : List Byte} (h1 : AnsweredWithin s.cfg.ctsLimit w1)
    (hw : NeverAnswered s.cfg.ctsLimit w) (hx : s.rx = answers [w1] ++ (w ++ rest)) :
    checkUnderflow s = .raised .busTimeout
      (s.ran (guardedFrame s.cfg w1 (s.cfg.wGetIntStatus :: s.cfg.wIntClearPayload) ++ polls s.cfg w) rest) := by
  rw [checkUnderflow, issueR_half _ _ _ h1 hw (by simpa using hx), Ran.bind_raised]

/-- Bus events do not touch UF. -/
theorem State.ran_setUf (b : Bool) (es : List Event) (rest : List Byte) (s : State) :
    (s.setUf b).ran es rest = (s.ran es rest).setUf b := rfl

section
variable {i : Instr} {s : State} {f : Bool → State → Ran Result}

/-- An operation goes on from its answered underflow check with UF the tested bit (43_fifo_tx_engine.md R140). -/
theorem exec_underflow_answered {w1 w2 status rest : List Byte} {b : Bool}
    (h : exec i s = finish ((checkUnderflow s).bind f)) (h1 : AnsweredWithin s.cfg.ctsLimit w1)
    (h2 : AnsweredWithin s.cfg.ctsLimit w2) (hl : status.length = 7) (hb : b = true ↔ UnderflowReported s.cfg status)
    (hx : s.rx = answers [w1, w2] ++ (status ++ rest)) :
    exec i s = finish (f b ((s.ran (underflowEvents s.cfg w1 w2 status) rest).setUf b)) := by
  rw [h, checkUnderflow_answered h1 h2 hl hx, Ran.bind_done, underflowBit_eq_iff hb]
  rfl

/-- The first wait of the underflow check times out: only its polls are left (43_fifo_tx_engine.md R140). -/
theorem Ends.of_underflow_never {w rest : List Byte} (h : exec i s = finish ((checkUnderflow s).bind f))
    (hw : NeverAnswered s.cfg.ctsLimit w) (hx : s.rx = w ++ rest) :
    Ends i s .busTimeout { s.ran (polls s.cfg w) rest with lc := .uninitialized } := by
  refine Ends.of_lost h rfl ?_
  rw [checkUnderflow_never hw hx, Ran.bind_raised]

/-- The second wait of the underflow check times out: the command frame was sent (43_fifo_tx_engine.md R140). -/
theorem Ends.of_underflow_half {w1 w rest : List Byte} (h : exec i s = finish ((checkUnderflow s).bind f))
    (h1 : AnsweredWithin s.cfg.ctsLimit w1) (hw : NeverAnswered s.cfg.ctsLimit w)
    (hx : s.rx = answers [w1] ++ (w ++ rest)) :
    Ends i s .busTimeout
      { s.ran (guardedFrame s.cfg w1 (s.cfg.wGetIntStatus :: s.cfg.wIntClearPayload) ++ polls s.cfg w) rest with
        lc := .uninitialized } := by
  refine Ends.of_lost h rfl ?_
  rw [checkUnderflow_half h1 hw hx, Ran.bind_raised]

end

/-! ## CHECK_CLEAR_UNDERFLOW -/

theorem exec_checkClearUnderflow_up {s : State} (h : s.lc ≠ .uninitialized) :
    exec .checkClearUnderflow s =
      finish ((checkUnderflow s).bind fun b t => .done { ret := some (if b then 1 else 0) } t) := by
  rw [exec, execCheckClearUnderflow, requireUp_bind_up h]

/-- Settles O31: the operation is the underflow check alone, by its three ends. -/
theorem underflowCheckStoresTheTestedBit : Obligations.UnderflowCheckStoresTheTestedBit := by
  refine ⟨fun r hop => ?selected, RefusedWhenDown.of_gate fun _ => rfl,
    fun s w1 w2 status rest b hs h1 h2 hl hb hx => ?answered,
    fun s w rest hs hw hx => .of_underflow_never (exec_checkClearUnderflow_up hs) hw hx,
    fun s w1 w rest hs h1 hw hx => .of_underflow_half (exec_checkClearUnderflow_up hs) h1 hw hx⟩
  case selected => simp [decodeRequest, hop]
  case answered =>
    exact Returns.of_done (exec_underflow_answered (exec_checkClearUnderflow_up hs) h1 h2 hl hb hx) rfl

/-! ## CLEAR_FIFO -/

/-- Past its lifecycle check CLEAR_FIFO is the underflow check, then one guarded frame (43_fifo_tx_engine.md R141). -/
theorem exec_clearFifo_up {s : State} (h : s.lc ≠ .uninitialized) :
    exec .clearFifo s = finish ((checkUnderflow s).bind fun _ t =>
      (issue t.cfg.wFifoInfo t.cfg.wFifoResetArg t).bind fun _ u => .done {} u) := by
  rw [exec, execClearFifo, requireUp_bind_up h, clearFifo, Ran.bind_assoc]

/-- Settles O32: the two time-outs of the underflow check, and past it the two ends of the FIFO-reset frame. -/
theorem clearFifoChecksThenResets : Obligations.ClearFifoChecksThenResets := by
  refine ⟨fun r hop => ?selected, RefusedWhenDown.of_gate fun _ => rfl,
    fun s w1 w2 w3 status rest b hs hw hl hb hx => ?answered,
    fun s w rest hs hw hx => .of_underflow_never (exec_clearFifo_up hs) hw hx,
    fun s w1 w rest hs h1 hw hx => .of_underflow_half (exec_clearFifo_up hs) h1 hw hx,
    fun s w1 w2 w status rest b hs hw hn hl hb hx => ?resetTimedOut⟩
  case selected => simp [decodeRequest, hop]
  case answered =>
    have h := exec_underflow_answered (exec_clearFifo_up hs) (hw w1 (by simp)) (hw w2 (by simp)) hl hb hx
    refine Ends.of_done h ?_
    rw [issue_answered (s := (s.ran _ _).setUf b) (rest := rest) _ _ (hw w3 (by simp)) (by simp [State.ran]),
      State.ran_setUf, State.ran_ran]
    rfl
  case resetTimedOut =>
    have h := exec_underflow_answered (exec_clearFifo_up hs) (hw w1 (by simp)) (hw w2 (by simp)) hl hb hx
    rw [issue_never (s := (s.ran _ _).setUf b) _ _ hn rfl, State.ran_setUf, State.ran_ran] at h
    exact Ends.of_lost h rfl rfl

/-! ## START_TX -/

/-- ISSUE keeps the parameters (`issue_cases`), so what follows it may as well read them from the state before it. -/
theorem issue_bind_congr {α : Type} {opcode : Byte} {payload : List Byte} {s : State} {f g : Unit → State → Ran α}
    (h : ∀ t, t.cfg = s.cfg → f () t = g () t) : (issue opcode payload s).bind f = (issue opcode payload s).bind g := by
  obtain ⟨w, t, -, ht, hr⟩ | ⟨w, t, -, -, hr⟩ := issue_cases opcode payload s
  · rw [hr, Ran.bind_done, Ran.bind_done, h t ht.cfg]
  · rw [hr, Ran.bind_raised, Ran.bind_raised]

/-- The three command frames of START_TX after its underflow check (43_fifo_tx_engine.md R142). -/
def startCommands (p : Params) (buffer : List Byte) : List CommandFrame :=
  [⟨p.wFifoInfo, p.wFifoResetArg⟩, ⟨p.wWriteTxFifo, memReads buffer (min buffer.length 64)⟩,
    ⟨p.wStartTx, startTxPayload p buffer.length⟩]

/-- The commands of START_TX, as the statement lays their bytes out (30_encoding.md R83, R85, R86). -/
theorem startCommands_bytes (p : Params) (buffer : List Byte) :
    (startCommands p buffer).map frameBytes = startFrames p buffer := by
  have hlow : BitVec.ofNat 8 buffer.length = BitVec.ofNat 8 (buffer.length % 256) := by
    apply BitVec.eq_of_toNat_eq
    simp
  simp [startCommands, startFrames, frameBytes, memReads, startTxPayload, be2, byteAt, min_comm, hlow]

/-- Past its checks START_TX is the underflow check, then its three guarded frames in order (43_fifo_tx_engine.md
R142). -/
theorem exec_startTx_up {s : State} {buffer : List Byte} (h : s.lc ≠ .uninitialized) (hb : buffer.length ≤ 65535) :
    exec (.startTx buffer) s = finish ((checkUnderflow s).bind fun _ t =>
      (issueAll (startCommands t.cfg buffer) t).bind fun _ u =>
      .done { ret := some (BitVec.ofNat 32 (min buffer.length 64)) } (u.setLc .transmitting)) := by
  rw [exec, execStartTx, requireUp_bind_up h, require_pos hb, Ran.bind_done, clearFifo, Ran.bind_assoc]
  congr 2
  funext _ t
  simp only [startCommands, issueAll, Ran.bind_assoc, Ran.bind_done]
  refine issue_bind_congr fun u hu => ?_
  rw [hu]
  refine issue_bind_congr fun v hv => ?_
  rw [hv, hu]

/-- Settles O33: the length check, the two time-outs of the underflow check, and past it the two ends of the three
guarded frames (`issueAll_answered`, `issueAll_never`). -/
theorem startTxLoadsAndStarts : Obligations.StartTxLoadsAndStarts := by
  refine fun buffer => ⟨fun r hop => ?selected, RefusedWhenDown.of_gate fun _ => rfl, fun s hs hlong => ?tooLong,
    fun s w1 w2 status rest ws b hs hlen h1 h2 hl hb h3 hw hx => ?answered,
    fun s w rest hs hlen hw hx => .of_underflow_never (exec_startTx_up hs hlen) hw hx,
    fun s w1 w rest hs hlen h1 hw hx => .of_underflow_half (exec_startTx_up hs hlen) h1 hw hx,
    fun s w1 w2 status w rest ws b hs hlen h1 h2 hl hb h3 hw hn hx => ?frameTimedOut⟩
  case selected => simp [decodeRequest, hop]
  case tooLong =>
    refine Ends.of_raised rfl rfl ?_
    rw [requireUp_bind_up hs, require_neg (by omega), Ran.bind_raised]
  case answered =>
    have h := exec_underflow_answered (exec_startTx_up hs hlen) h1 h2 hl hb hx
    refine Returns.of_done h ?_
    rw [issueAll_answered (s := (s.ran _ _).setUf b) h3 hw rfl, Ran.bind_done, startCommands_bytes, State.ran_setUf,
      State.ran_ran]
    rfl
  case frameTimedOut =>
    have h := exec_underflow_answered (exec_startTx_up hs hlen) h1 h2 hl hb hx
    rw [issueAll_never (s := (s.ran _ _).setUf b) h3 hw hn rfl, startCommands_bytes, State.ran_setUf,
      State.ran_ran, ← List.append_assoc] at h
    exact Ends.of_lost h rfl rfl

/-! ## REQUEST_DEVICE_STATE -/

/-- A device-state query whose first wait times out (43_fifo_tx_engine.md R143). -/
theorem queryState_never {s : State} {w rest : List Byte} (hw : NeverAnswered s.cfg.ctsLimit w)
    (hx : s.rx = w ++ rest) : queryState s = .raised .busTimeout (s.ran (polls s.cfg w) rest) := by
  rw [queryState, issueR_never _ _ _ hw hx, Ran.bind_raised]

/-- A device-state query whose second wait times out (43_fifo_tx_engine.md R143). -/
theorem queryState_half {s : State} {w1 w rest : List Byte} (h1 : AnsweredWithin s.cfg.ctsLimit w1)
    (hw : NeverAnswered s.cfg.ctsLimit w) (hx : s.rx = answers [w1] ++ (w ++ rest)) :
    queryState s = .raised .busTimeout
      (s.ran (guardedFrame s.cfg w1 [s.cfg.wRequestDeviceState] ++ polls s.cfg w) rest) := by
  rw [queryState, issueR_half _ _ _ h1 hw (by simpa using hx), Ran.bind_raised]

theorem exec_requestDeviceState_up {s : State} (h : s.lc ≠ .uninitialized) :
    exec .requestDeviceState s =
      finish ((queryState s).bind fun c t => .done { ret := some (c.setWidth 32) } t) := by
  rw [exec, execRequestDeviceState, requireUp_bind_up h]

/-- Settles O34, by the three ends of the query. -/
theorem deviceStateQueryReturnsTheCode : Obligations.DeviceStateQueryReturnsTheCode := by
  refine ⟨fun r hop => ?selected, RefusedWhenDown.of_gate fun _ => rfl, fun s q rest hs hq hx => ?answered,
    fun s w rest hs hw hx => ?firstTimedOut, fun s w1 w rest hs h1 hw hx => ?secondTimedOut⟩
  case selected => simp [decodeRequest, hop]
  case answered =>
    refine Returns.of_done (exec_requestDeviceState_up hs) ?_
    rw [queryState_answered hq hx, Ran.bind_done, maskedState]
  case firstTimedOut =>
    refine Ends.of_lost (exec_requestDeviceState_up hs) rfl ?_
    rw [queryState_never hw hx, Ran.bind_raised]
  case secondTimedOut =>
    refine Ends.of_lost (exec_requestDeviceState_up hs) rfl ?_
    rw [queryState_half h1 hw hx, Ran.bind_raised]

/-! ## WAIT_TX_COMPLETE -/

/-- Past its lifecycle check, and past queries that saw no done state, WAIT_TX_COMPLETE goes on with the count that is
left (43_fifo_tx_engine.md R144). -/
theorem exec_waitTxComplete_notDone {s : State} {timeoutMs : Word} {qs : List Query} {rest : List Byte}
    (h : s.lc ≠ .uninitialized) (hq : ∀ q ∈ qs, q.Complete s.cfg ∧ ¬ q.ReportsDone s.cfg)
    (hn : qs.length ≤ timeoutMs.toNat) (hx : s.rx = qs.flatMap Query.bytes ++ rest) :
    exec (.waitTxComplete timeoutMs) s =
      finish ((doneLoop (timeoutMs.toNat - qs.length) (s.ran (delayedQueries s.cfg qs) rest)).bind afterDoneLoop) := by
  rw [exec, execWaitTxComplete, requireUp_bind_up h, doneLoop_notDone hq hn hx]

/-- With queries left, the loop begins with one (43_fifo_tx_engine.md R144). -/
theorem doneLoop_pos {n : Nat} (h : 0 < n) (s : State) :
    doneLoop n s = (queryState s).bind fun c t =>
      if doneCode t.cfg c then .done true t else doneLoop (n - 1) (t.emit (.dlyMs 1)) := by
  obtain ⟨n, rfl⟩ := Nat.exists_eq_add_one.2 h
  rfl

/-- With no query left, WAIT_TX_COMPLETE forces sleep (43_fifo_tx_engine.md R144). -/
theorem doneLoop_zero_afterDoneLoop (s : State) :
    (doneLoop 0 s).bind afterDoneLoop =
      (commandState .sleep s).bind fun _ t => .raised .txTimeout (t.setLc .idle) := rfl

/-- A wait that times out where WAIT_TX_COMPLETE waits next, for a query or for the sleep frame (43_fifo_tx_engine.md
R144). -/
theorem doneLoop_afterDoneLoop_never {n : Nat} {s : State} {w rest : List Byte} (hw : NeverAnswered s.cfg.ctsLimit w)
    (hx : s.rx = w ++ rest) :
    (doneLoop n s).bind afterDoneLoop = .raised .busTimeout (s.ran (polls s.cfg w) rest) := by
  cases n with
  | zero => rw [doneLoop_zero_afterDoneLoop, commandState_never .sleep hw hx, Ran.bind_raised]
  | succ n => rw [doneLoop, queryState_never hw hx, Ran.bind_raised, Ran.bind_raised]

/-- Settles O35: past the queries that saw no done state (`exec_waitTxComplete_notDone`), the next one sees it, or the
count is used up and sleep is forced, or the next wait times out. -/
theorem waitTxCompletePollsOncePerMillisecond : Obligations.WaitTxCompletePollsOncePerMillisecond := by
  refine fun timeoutMs => ⟨fun r hop => ?selected, RefusedWhenDown.of_gate fun _ => rfl,
    fun s qs q rest hs hqs hn hq hd hx => ?done, fun s qs w rest hs hqs hn hw hx => ?countUsed,
    fun s qs w rest hs hqs hn hw hx => ?nextTimedOut, fun s qs w1 w rest hs hqs hn h1 hw hx => ?secondTimedOut⟩
  case selected => simp [decodeRequest, hop]
  case done =>
    refine Ends.of_done (exec_waitTxComplete_notDone hs hqs hn.le hx) ?_
    rw [doneLoop_pos (by omega), queryState_answered (s := s.ran _ _) hq rfl, Ran.bind_done]
    simp only [State.ran_cfg, (doneCode_iff s.cfg q).2 hd, if_true, Ran.bind_done, afterDoneLoop, State.ran_ran]
    rfl
  case countUsed =>
    refine Ends.of_raised (exec_waitTxComplete_notDone hs hqs hn.le hx) rfl ?_
    rw [hn, Nat.sub_self, doneLoop_zero_afterDoneLoop,
      commandState_answered (s := s.ran _ _) (rest := rest) .sleep hw (by simp), Ran.bind_done, State.ran_ran]
    rfl
  case nextTimedOut =>
    refine Ends.of_lost (exec_waitTxComplete_notDone hs hqs hn hx) rfl ?_
    rw [doneLoop_afterDoneLoop_never (s := s.ran _ _) hw rfl, State.ran_ran, State.ran_cfg]
  case secondTimedOut =>
    refine Ends.of_lost (exec_waitTxComplete_notDone hs hqs hn.le hx) rfl ?_
    rw [doneLoop_pos (by omega), queryState_half (s := s.ran _ _) h1 hw rfl, Ran.bind_raised, Ran.bind_raised,
      State.ran_ran, State.ran_cfg, List.append_assoc]

end Sys2Proof.Machine
end


section
/-! # Modulation encoder (44_modulation_encoder.md)

The 4FSK operations are one body, `sendSymbols`, at the symbols of their operand, or one offset frame; the gated carrier
is two state commands with a hold between them, or a hold alone. All six are refused while LC is Uninitialized. -/

namespace Sys2Proof.Machine

/-! ## Symbols -/

/-- A symbol is the base-4 digit of its byte at its place from the top (44_modulation_encoder.md R150). -/
theorem sym_toNat (b : Byte) (k : Fin 4) : (sym b k).toNat = b.toNat / 4 ^ (3 - k.val) % 4 := by
  have hexp : 6 - 2 * k.val = 2 * (3 - k.val) := by omega
  rw [sym, BitVec.extractLsb'_toNat, Nat.shiftRight_eq_div_pow, hexp, Nat.pow_mul]

/-- The pairs of bits of a byte, put together again. -/
theorem sym_append (b : Byte) : (sym b 0 ++ sym b 1 ++ sym b 2 ++ sym b 3 : BitVec 8) = b := by
  have h01 : sym b 0 ++ sym b 1 = b.extractLsb' 4 4 := BitVec.extractLsb'_append_extractLsb'_eq_extractLsb' rfl
  have h012 : b.extractLsb' 4 4 ++ sym b 2 = b.extractLsb' 2 6 :=
    BitVec.extractLsb'_append_extractLsb'_eq_extractLsb' rfl
  have h0123 : b.extractLsb' 2 6 ++ sym b 3 = b.extractLsb' 0 8 :=
    BitVec.extractLsb'_append_extractLsb'_eq_extractLsb' rfl
  calc sym b 0 ++ sym b 1 ++ sym b 2 ++ sym b 3
      = b.extractLsb' 0 8 := by rw [h01, h012, h0123]
    _ = b := BitVec.extractLsb'_eq_self

/-- Settles O15: a symbol is a base-4 digit (`sym_toNat`), and the pairs of bits make the byte (`sym_append`). -/
theorem symbolsAreThePairsFromTheTop : Obligations.SymbolsAreThePairsFromTheTop :=
  ⟨sym_toNat, sym_append, fun _ => rfl, rfl, rfl, rfl, rfl⟩

/-- A byte's symbols, as the statements lay them out (44_modulation_encoder.md R150). -/
theorem symbolsOf_eq (b : Byte) :
    symbolsOf b = [b.extractLsb' 6 2, b.extractLsb' 4 2, b.extractLsb' 2 2, b.extractLsb' 0 2] := rfl

/-- The symbols of a word's low byte are read from the word (44_modulation_encoder.md R152). -/
theorem symbolsOf_setWidth (b : Word) :
    symbolsOf (b.setWidth 8) =
      [b.extractLsb' 6 2, b.extractLsb' 4 2, b.extractLsb' 2 2, b.extractLsb' 0 2] := by
  simp [symbolsOf_eq, BitVec.extractLsb'_setWidth_of_le]

/-! ## The operations past their lifecycle check -/

theorem exec_fsk4Write_up {s : State} (h : s.lc ≠ .uninitialized) (buffer : List Byte) :
    exec (.fsk4Write buffer) s = finish ((sendSymbols (buffer.flatMap symbolsOf) s).bind fun _ s => .done {} s) := by
  rw [exec, execFsk4Write, requireUp_bind_up h, writeBytes_eq]

theorem exec_fsk4WriteByte_up {s : State} (h : s.lc ≠ .uninitialized) (b : Word) :
    exec (.fsk4WriteByte b) s =
      finish ((require (b.toNat < 256) .rangeFault s).bind fun _ s =>
        (sendSymbols (symbolsOf (b.setWidth 8)) s).bind fun _ s => .done {} s) := by
  rw [exec, execFsk4WriteByte, requireUp_bind_up h]
  rfl

theorem exec_fsk4Preamble_up {s : State} (h : s.lc ≠ .uninitialized) (n : Word) :
    exec (.fsk4Preamble n) s =
      finish ((sendSymbols ((List.replicate n.toNat trainingByte).flatMap symbolsOf) s).bind
        fun _ s => .done {} s) := by
  rw [exec, execFsk4Preamble, requireUp_bind_up h, repeatByte_eq, List.flatMap_def, List.map_replicate]

theorem exec_fsk4Idle_up {s : State} (h : s.lc ≠ .uninitialized) :
    exec .fsk4Idle s = finish ((writeOffset 0 s).bind fun _ s => .done {} s) := by
  rw [exec, execFsk4Idle, requireUp_bind_up h]

theorem exec_cwMark_up {s : State} (h : s.lc ≠ .uninitialized) (units : Word) :
    exec (.cwMark units) s =
      finish ((commandState .transmitting s).bind fun _ t =>
        (commandState .ready (t.emit (.dlyMs (units.toNat * dotMs t.cfg)))).bind fun _ u => .done {} u) := by
  rw [exec, execCwMark, requireUp_bind_up h]

theorem exec_cwSpace_up {s : State} (h : s.lc ≠ .uninitialized) (units : Word) :
    exec (.cwSpace units) s = finish (.done {} (s.emit (.dlyMs (units.toNat * dotMs s.cfg)))) := by
  rw [exec, execCwSpace, requireUp_bind_up h]

/-! ## 4FSK -/

/-- An operation whose body is symbols, by the two ends of `sendSymbols`. -/
theorem SendsSymbols.of_sendSymbols {i : Instr} {s : State} {ys : List (BitVec 2)}
    (h : exec i s = finish ((sendSymbols ys s).bind fun _ t => .done {} t)) : SendsSymbols i s ys := by
  refine ⟨fun ws rest hl hw hx => Ends.of_done h ?_, fun ws w rest hl hw hn hx => Ends.of_lost h rfl ?_⟩
  · rw [sendSymbols_answered hl hw hx, Ran.bind_done]
  · rw [sendSymbols_never hl hw hn hx, Ran.bind_raised]

/-- Settles O36: the operand's range check, and past it the symbols of its low byte. -/
theorem writeByteSendsFourHeldSymbols : Obligations.WriteByteSendsFourHeldSymbols := by
  refine fun b => ⟨fun r hop => ?selected, RefusedWhenDown.of_gate fun _ => rfl, fun s hs hb => ?outOfRange,
    fun s hs hb => ?sent⟩
  case selected => simp [decodeRequest, hop]
  case outOfRange =>
    refine Ends.of_raised (exec_fsk4WriteByte_up hs b) rfl ?_
    rw [require_neg (by omega), Ran.bind_raised]
  case sent =>
    have h := exec_fsk4WriteByte_up hs b
    rw [require_pos hb, Ran.bind_done, symbolsOf_setWidth] at h
    exact .of_sendSymbols h

/-- Settles O37: the body is the symbols of the buffer's bytes in order (`writeBytes_eq`). -/
theorem writeSendsEveryByteInOrder : Obligations.WriteSendsEveryByteInOrder := by
  refine fun buffer => ⟨fun r hop => ?selected, RefusedWhenDown.of_gate fun _ => rfl,
    fun s hs => .of_sendSymbols (exec_fsk4Write_up hs buffer)⟩
  case selected => simp [decodeRequest, hop]

/-- Settles O38: the body is the symbols of the training byte, repeated (`repeatByte_eq`). -/
theorem preambleRepeatsTheTrainingByte : Obligations.PreambleRepeatsTheTrainingByte := by
  refine fun n => ⟨fun r hop => ?selected, RefusedWhenDown.of_gate fun _ => rfl,
    fun s hs => .of_sendSymbols (exec_fsk4Preamble_up hs n)⟩
  case selected => simp [decodeRequest, hop]

/-- Settles O39: an offset of 0 is in range, and its two bytes are zero. -/
theorem idleSendsOffsetZero : Obligations.IdleSendsOffsetZero := by
  refine ⟨fun r hop => ?selected, RefusedWhenDown.of_gate fun _ => rfl, fun s hs => ?sent⟩
  case selected => simp [decodeRequest, hop]
  case sent =>
    have h := exec_fsk4Idle_up hs
    rw [writeOffset_inRange s (by omega)] at h
    exact SendsOneFrame.of_issue h rfl rfl rfl

/-! ## The gated carrier -/

/-- A hold after bus events that left chip-select released is one more event. -/
theorem State.ran_emit_dlyMs {es : List Event} (hes : es ≠ []) (n : Nat) (rest : List Byte) (s : State) :
    (s.ran es rest).emit (.dlyMs n) = s.ran (es ++ [.dlyMs n]) rest := by
  simp [State.ran, State.emit, hes, nselAfter, sdnAfter]

/-- Bus events do not touch LC. -/
theorem State.ran_setLc (l : Lifecycle) (es : List Event) (rest : List Byte) (s : State) :
    (s.setLc l).ran es rest = (s.ran es rest).setLc l := rfl

/-- Once the carrier is on and held, what is left of CW_MARK is the ready command (44_modulation_encoder.md R158). -/
theorem exec_cwMark_keyed {s : State} {w1 rest : List Byte} (units : Word) (h : s.lc ≠ .uninitialized)
    (h1 : AnsweredWithin s.cfg.ctsLimit w1) (hx : s.rx = w1 ++ 0xFF#8 :: rest) :
    exec (.cwMark units) s =
      finish ((commandState .ready ((s.ran (guardedFrame s.cfg w1 [s.cfg.wChangeState, s.cfg.wStTx] ++
        [.dlyMs (units.toNat * dotMs s.cfg)]) rest).setLc .transmitting)).bind fun _ t => .done {} t) := by
  rw [exec_cwMark_up h, commandState_answered .transmitting h1 hx, Ran.bind_done,
    ← State.ran_emit_dlyMs (guardedFrame_ne_nil _ _ _)]
  rfl

/-- Settles O40: a time-out at the enable, and past it the two ends of the ready command. -/
theorem markKeysTheCarrier : Obligations.MarkKeysTheCarrier := by
  refine fun units => ⟨fun r hop => ?selected, RefusedWhenDown.of_gate fun _ => rfl,
    fun s w1 w2 rest hs h1 h2 hx => ?keyed, fun s w rest hs hw hx => ?enableTimedOut,
    fun s w1 w rest hs h1 hw hx => ?inhibitTimedOut⟩
  case selected => simp [decodeRequest, hop]
  case keyed =>
    refine Ends.of_done (exec_cwMark_keyed (rest := w2 ++ 0xFF#8 :: rest) units hs h1 (by simpa using hx)) ?_
    rw [commandState_answered (s := (s.ran _ _).setLc _) .ready h2 rfl, Ran.bind_done, State.ran_setLc, State.ran_ran]
    rfl
  case enableTimedOut =>
    refine Ends.of_lost (exec_cwMark_up hs units) rfl ?_
    rw [commandState_never .transmitting hw hx, Ran.bind_raised]
  case inhibitTimedOut =>
    have h := exec_cwMark_keyed (rest := w ++ rest) units hs h1 (by simpa using hx)
    rw [commandState_never (s := (s.ran _ _).setLc _) .ready hw rfl, Ran.bind_raised, State.ran_setLc,
      State.ran_ran] at h
    exact (Ends.of_lost h rfl rfl :)

/-- Settles O41: the hold is the one event, and no other register changes. -/
theorem spaceOnlyHolds : Obligations.SpaceOnlyHolds := by
  refine fun units => ⟨fun r hop => ?selected, RefusedWhenDown.of_gate fun _ => rfl, fun s hs => ?held⟩
  case selected => simp [decodeRequest, hop]
  case held => exact Ends.of_done (exec_cwSpace_up hs units) rfl

end Sys2Proof.Machine
end


section
/-! # The modulation operations as a whole (44_modulation_encoder.md R161)

Which command frames they send, carried through their bodies as `Grew` says it of each shared body; and that they neither
read nor write the Driver Context: each piece they are made of commutes with replacing its three registers. -/

namespace Sys2Proof.Machine

/-! ## The frames of each mode -/

/-- The command frames of the gated carrier: the change-state frame of `transmitting` or of `ready`
(44_modulation_encoder.md R161). -/
def IsKeyingFrame (p : Params) (f : List Event) : Prop :=
  f = [.tx p.wChangeState, .tx p.wStTx] ∨ f = [.tx p.wChangeState, .tx p.wStReady]

/-- The command frames that `i` may send, if it is a modulation operation (44_modulation_encoder.md R161). -/
def ModeFrame (p : Params) : Instr → List Event → Prop
  | .fsk4Write _ | .fsk4WriteByte _ | .fsk4Preamble _ | .fsk4Idle => IsOffsetFrame p
  | .cwMark _ | .cwSpace _ => IsKeyingFrame p
  | _ => fun _ => True

/-- However the body `r`, begun at `s`, ends, the command frames it added are of the kind `A`. -/
def Ran.SendsOnly {α : Type} (A : List Event → Prop) (s : State) (r : Ran α) : Prop :=
  r.All (fun _ t => Grew A s t) (fun _ t => Grew A s t)

/-- The end of an operation adds no event to those of its body. -/
theorem finish_sendsOnly {A : List Event → Prop} {s t : State} {r : Ran Result} (h : r.SendsOnly A s)
    (ht : finish r = .next t) :
    ∃ es, t.trace = s.trace ++ es ∧ ∀ f ∈ cutFrames none es, isCommandFrame f = true → A f := by
  rcases settle_cases h ht with ⟨v, u, hu, rfl⟩ | ⟨k, u, hu, rfl⟩
  · obtain ⟨es, he, -, -, ha⟩ := hu.events
    exact ⟨es, he, ha⟩
  · obtain ⟨es, he, -, -, ha⟩ := hu.events
    exact ⟨es, he, ha⟩

theorem Ran.SendsOnly.of_done {α : Type} {A : List Event → Prop} {s t : State} (h : Went A s t) (a : α) :
    (Ran.done a t).SendsOnly A s :=
  h.toGrew

/-- A body in two parts, of which the second keeps the parameters its kind of frame is written in. -/
theorem Ran.SendsOnly.bind {α β : Type} {A : List Event → Prop} {s : State} {r : Ran α} {f : α → State → Ran β}
    (h : r.SendsOnly A s) (hf : ∀ a t, t.cfg = s.cfg → (f a t).SendsOnly A t) : (r.bind f).SendsOnly A s :=
  h.next (fun a t ht => (hf a t ht.cfg).mono (fun _ _ => ht.trans) (fun _ _ => ht.trans)) (fun _ _ ht => ht)

/-- A piece that yields a result from what ran before it. -/
theorem Ran.SendsOnly.result {α β : Type} {A : List Event → Prop} {s : State} {r : Ran α} (h : r.SendsOnly A s)
    (f : α → State → β) : (r.bind fun a t => .done (f a t) t).SendsOnly A s :=
  h.bind fun _ t _ => .of_done (Went.refl A t) _

/-- A check before a body. -/
theorem Ran.SendsOnly.require {α : Type} {A : List Event → Prop} {s : State} {c : Bool} {k : Kind}
    {f : Unit → State → Ran α} (h : (f () s).SendsOnly A s) : ((require c k s).bind f).SendsOnly A s := by
  cases c with
  | true => exact h
  | false => exact Grew.refl A s

/-- The lifecycle check before a body (60_exceptions.md R189). -/
theorem Ran.SendsOnly.gate {α : Type} {A : List Event → Prop} {s : State} {f : Unit → State → Ran α}
    (h : (f () s).SendsOnly A s) : ((requireUp s).bind f).SendsOnly A s :=
  .require h

/-- A body that begins after a delay. -/
theorem Ran.SendsOnly.afterDelay {α : Type} {A : List Event → Prop} {n : Nat} {s : State} {r : Ran α}
    (h : r.SendsOnly A (s.emit (.dlyMs n))) : r.SendsOnly A s :=
  have hd := went_emit_dlyMs A n s
  h.mono (fun _ _ => hd.after) (fun _ _ => hd.after)

/-- A part of a body that only waits and sends frames, as the laws of the shared bodies state it. -/
theorem Ran.SendsOnly.of_quiet {α : Type} {A : List Event → Prop} {s : State} {r : Ran α} {n : Nat}
    (h : r.All (fun _ t => Went A s t ∧ Kept s t) (fun k t => k = .busTimeout ∧ Grew A s t ∧ Kept s t ∧ GaveUp n s t)) :
    r.SendsOnly A s :=
  h.mono (fun _ _ ⟨hg, _⟩ => hg.toGrew) (fun _ _ ⟨_, hg, _⟩ => hg)

theorem writeOffset_sendsOnly (offset : Nat) (s : State) :
    (writeOffset offset s).SendsOnly (IsOffsetFrame s.cfg) s :=
  .require (.of_quiet (issue_all _ _ s ⟨_, _, rfl⟩))

theorem sendSymbols_sendsOnly (ys : List (BitVec 2)) (s : State) :
    (sendSymbols ys s).SendsOnly (IsOffsetFrame s.cfg) s :=
  .of_quiet (sendSymbols_all ys s)

/-- A state command sends the one frame of its target (41_state_controller.md R110). -/
theorem commandState_sendsOnly {A : List Event → Prop} (target : OpState) (s : State)
    (ha : A [.tx s.cfg.wChangeState, .tx (s.cfg.stateCode target)]) : (commandState target s).SendsOnly A s :=
  (Ran.SendsOnly.of_quiet (issue_all _ _ s ha)).bind fun _ t _ => .of_done (went_setLc A _ t) ()

/-- CW_MARK past its lifecycle check: both of its state commands send a keying frame (44_modulation_encoder.md R158). -/
theorem cwMark_sendsOnly (units : Word) (s : State) :
    ((commandState .transmitting s).bind fun _ t =>
      (commandState .ready (t.emit (.dlyMs (units.toNat * dotMs t.cfg)))).bind fun _ u =>
        Ran.done ({} : Result) u).SendsOnly (IsKeyingFrame s.cfg) s :=
  (commandState_sendsOnly .transmitting s (.inl rfl)).bind fun _ t ht =>
    have hready : IsKeyingFrame s.cfg [.tx t.cfg.wChangeState, .tx (t.cfg.stateCode .ready)] := .inr (by rw [ht]; rfl)
    .afterDelay (.result (commandState_sendsOnly .ready (t.emit _) hready) _)

/-- Every command frame an instruction adds to the trace is one its mode allows (44_modulation_encoder.md R161). -/
theorem exec_modeFrame {i : Instr} {s t : State} (h : exec i s = .next t) :
    ∃ es, t.trace = s.trace ++ es ∧ ∀ f ∈ cutFrames none es, isCommandFrame f = true → ModeFrame s.cfg i f := by
  cases i with
  | fsk4Write buffer =>
    exact finish_sendsOnly (A := IsOffsetFrame s.cfg)
      (.gate (.result (writeBytes_eq buffer s ▸ sendSymbols_sendsOnly _ s) _)) h
  | fsk4WriteByte b =>
    exact finish_sendsOnly (A := IsOffsetFrame s.cfg) (.gate (.require (.result (sendSymbols_sendsOnly _ s) _))) h
  | fsk4Preamble n =>
    exact finish_sendsOnly (A := IsOffsetFrame s.cfg)
      (.gate (.result (repeatByte_eq trainingByte n.toNat s ▸ sendSymbols_sendsOnly _ s) _)) h
  | fsk4Idle =>
    exact finish_sendsOnly (A := IsOffsetFrame s.cfg) (.gate (.result (writeOffset_sendsOnly 0 s) _)) h
  | cwMark units =>
    exact finish_sendsOnly (A := IsKeyingFrame s.cfg) (.gate (cwMark_sendsOnly units s)) h
  | cwSpace units =>
    exact finish_sendsOnly (A := IsKeyingFrame s.cfg) (.gate (.of_done (went_emit_dlyMs _ _ s) _)) h
  | _ =>
    obtain ⟨es, he, -⟩ := (exec_written h).events
    exact ⟨es, he, fun _ _ _ => trivial⟩

/-- Settles O56: `ModeFrame` at each of the six operations. -/
theorem modesSendOnlyTheirOwnFrames : Obligations.ModesSendOnlyTheirOwnFrames := by
  intro i s t h
  obtain ⟨es, he, hm⟩ := exec_modeFrame h
  refine ⟨es, he, fun hfsk => ?fsk4, fun hcw => ?gatedCarrier⟩
  case fsk4 => obtain ⟨_, rfl⟩ | ⟨_, rfl⟩ | ⟨_, rfl⟩ | rfl := hfsk <;> exact hm
  case gatedCarrier => obtain ⟨_, rfl⟩ | ⟨_, rfl⟩ := hcw <;> exact hm

/-! ## The Driver Context -/

/-- `s` with other values in the Driver Context (10_state.md R22 to R24). -/
def State.withContext (r : Word) (c d : Option Word) (s : State) : State :=
  { s with refclk := r, carrier := c, deviation := d }

/-- A piece of an operation, with other values in the Driver Context where it ended. -/
def Ran.withContext {α : Type} (r : Word) (c d : Option Word) : Ran α → Ran α
  | .done a s => .done a (s.withContext r c d)
  | .raised k s => .raised k (s.withContext r c d)

/-- The piece `f` of an operation neither reads nor writes the Driver Context: begun with other values in it, it ends
the same but for those values. -/
def IgnoresContext {α : Type} (f : State → Ran α) : Prop :=
  ∀ (r : Word) (c d : Option Word) (s : State), f (s.withContext r c d) = (f s).withContext r c d

section
variable (r : Word) (c d : Option Word)

@[simp] theorem State.withContext_cfg (s : State) : (s.withContext r c d).cfg = s.cfg := rfl

theorem State.emits_withContext (es : List Event) (s : State) :
    (s.withContext r c d).emits es = (s.emits es).withContext r c d := by
  rw [State.emits_eq, State.emits_eq]
  rfl

theorem drawByte_withContext (s : State) :
    drawByte (s.withContext r c d) = ((drawByte s).1, (drawByte s).2.withContext r c d) := by
  cases hrx : s.rx with
  | nil => simp [drawByte, State.withContext, hrx]
  | cons b rest => simp [drawByte, State.withContext, hrx]

theorem pollFrame_withContext (s : State) :
    pollFrame (s.withContext r c d) = ((pollFrame s).1, (pollFrame s).2.withContext r c d) := by
  simp only [pollFrame, drawByte_withContext, State.withContext_cfg, State.emits_withContext]

/-- The end of an operation does not touch the Driver Context. -/
theorem settle_withContext (q : Ran Result) : (q.withContext r c d).settle = q.settle.withContext r c d := by
  cases q <;> rfl

end

theorem IgnoresContext.done {α : Type} (a : α) : IgnoresContext (Ran.done a) := fun _ _ _ _ => rfl

/-- Pieces in a row. -/
theorem IgnoresContext.bind {α β : Type} {f : State → Ran α} {g : α → State → Ran β} (hf : IgnoresContext f)
    (hg : ∀ a, IgnoresContext (g a)) : IgnoresContext fun s => (f s).bind g := by
  intro r c d s
  show (f (s.withContext r c d)).bind g = ((f s).bind g).withContext r c d
  rw [hf]
  cases f s with
  | done a t => exact hg a r c d t
  | raised k t => rfl

/-- A piece that yields a result. -/
theorem IgnoresContext.result {α β : Type} {f : State → Ran α} (hf : IgnoresContext f) (b : β) :
    IgnoresContext fun s => (f s).bind fun _ t => .done b t :=
  hf.bind fun _ => .done b

/-- A piece whose code is read from the state, at a part of it that is not the Driver Context. -/
theorem IgnoresContext.reading {α β : Type} {v : State → β} {f : β → State → Ran α}
    (hv : ∀ r c d s, v (s.withContext r c d) = v s) (hf : ∀ b, IgnoresContext (f b)) :
    IgnoresContext fun s => f (v s) s := by
  intro r c d s
  show f (v (s.withContext r c d)) (s.withContext r c d) = _
  rw [hv, hf]

/-- A piece that begins after a delay. -/
theorem IgnoresContext.afterDelay {α : Type} {f : State → Ran α} (h : IgnoresContext f) (n : Nat) :
    IgnoresContext fun s => f (s.emit (.dlyMs n)) := by
  intro r c d s
  exact h r c d (s.emit (.dlyMs n))

theorem require_ignoresContext (b : Bool) (k : Kind) : IgnoresContext (require b k) := by
  cases b with
  | true => exact fun _ _ _ _ => rfl
  | false => exact fun _ _ _ _ => rfl

theorem requireUp_ignoresContext : IgnoresContext requireUp :=
  .reading (v := fun s => s.lc != .uninitialized) (fun _ _ _ _ => rfl) fun b => require_ignoresContext b .refused

theorem waitLoop_ignoresContext (n : Nat) : IgnoresContext (waitLoop n) := by
  intro r c d s
  induction n generalizing s with
  | zero => rfl
  | succ n ih =>
    simp only [waitLoop, pollFrame_withContext]
    split
    · rfl
    · exact ih _

theorem issue_ignoresContext (opcode : Byte) (payload : List Byte) : IgnoresContext (issue opcode payload) := by
  refine .bind (.reading (v := fun s => s.cfg.ctsLimit) (fun _ _ _ _ => rfl) waitLoop_ignoresContext) ?_
  intro _ r c d s
  simp only [sendFrame, State.emits_withContext, Ran.withContext]

theorem writeOffset_ignoresContext (offset : Nat) : IgnoresContext (writeOffset offset) :=
  .bind (require_ignoresContext _ _) fun _ => .reading (v := State.cfg) (fun _ _ _ _ => rfl)
    (f := fun p => issue p.wSetProperty (propPayload p.wGOffset p.wIOffset (be2 offset)))
    fun _ => issue_ignoresContext _ _

theorem sendSymbols_ignoresContext (ys : List (BitVec 2)) : IgnoresContext (sendSymbols ys) := by
  induction ys with
  | nil => exact .done ()
  | cons y ys ih =>
    exact .bind (writeOffset_ignoresContext _) fun _ => .reading (v := fun s => s.cfg.tSymMs) (fun _ _ _ _ => rfl)
      (f := fun n s => sendSymbols ys (s.emit (.dlyMs n))) ih.afterDelay

theorem writeBytes_ignoresContext (bs : List Byte) : IgnoresContext (writeBytes bs) :=
  funext (writeBytes_eq bs) ▸ sendSymbols_ignoresContext _

theorem repeatByte_ignoresContext (b : Byte) (n : Nat) : IgnoresContext (repeatByte b n) :=
  funext (repeatByte_eq b n) ▸ sendSymbols_ignoresContext _

theorem commandState_ignoresContext (target : OpState) : IgnoresContext (commandState target) :=
  .bind (.reading (v := State.cfg) (fun _ _ _ _ => rfl) (f := fun p => issue p.wChangeState [p.stateCode target])
    fun _ => issue_ignoresContext _ _) fun _ _ _ _ _ => rfl

/-- A piece that begins after a number of Morse units (44_modulation_encoder.md R157). -/
theorem IgnoresContext.afterUnits {α : Type} {f : State → Ran α} (h : IgnoresContext f) (units : Word) :
    IgnoresContext fun s => f (s.emit (.dlyMs (units.toNat * dotMs s.cfg))) :=
  .reading (v := fun s => units.toNat * dotMs s.cfg) (fun _ _ _ _ => rfl) (f := fun n s => f (s.emit (.dlyMs n)))
    h.afterDelay

/-- An operation whose body is gated and ignores the Driver Context keeps it and ends the same whatever it holds. -/
theorem exec_withContext {i : Instr} {f : Unit → State → Ran Result} {s t : State} (r : Word) (c d : Option Word)
    (hi : ∀ s, exec i s = finish ((requireUp s).bind f)) (hf : IgnoresContext (f ())) (h : exec i s = .next t) :
    exec i (s.withContext r c d) = .next (t.withContext r c d) := by
  have ht : ((requireUp s).bind f).settle = t := by simpa [hi, finish] using h
  have hb : (requireUp (s.withContext r c d)).bind f = ((requireUp s).bind f).withContext r c d :=
    requireUp_ignoresContext.bind (fun _ => hf) r c d s
  rw [hi, hb, finish, settle_withContext, ht]

/-- Settles O57: past its lifecycle check, each operation is symbols, an offset write, or state commands and holds. -/
theorem modesIgnoreTheDriverContext : Obligations.ModesIgnoreTheDriverContext := by
  intro i s t r c d hi h
  rcases hi with ⟨buffer, rfl⟩ | ⟨b, rfl⟩ | ⟨n, rfl⟩ | rfl | ⟨units, rfl⟩ | ⟨units, rfl⟩
  · exact exec_withContext r c d (fun _ => rfl) (.result (writeBytes_ignoresContext buffer) _) h
  · exact exec_withContext r c d (fun _ => rfl)
      (.bind (require_ignoresContext _ _) fun _ => .result (sendSymbols_ignoresContext _) _) h
  · exact exec_withContext r c d (fun _ => rfl) (.result (repeatByte_ignoresContext _ _) _) h
  · exact exec_withContext r c d (fun _ => rfl) (.result (writeOffset_ignoresContext 0) _) h
  · exact exec_withContext r c d (fun _ => rfl) (.bind (commandState_ignoresContext .transmitting) fun _ =>
      .afterUnits (.result (commandState_ignoresContext .ready) _) units) h
  · exact exec_withContext r c d (fun _ => rfl) (.afterUnits (.done _) units) h

end Sys2Proof.Machine
end

section
/-! # Configuration, power level and context read-back (45_system_configuration.md)

READ_CONTEXT is a lookup, SET_POWER a check and one guarded frame. CONFIGURE goes through three stages, and each has one
lemma that says where the operation stands once its waits were answered: the handshake from the powered-up state, the
set-up frames, the frequency set. An end of CONFIGURE is the stages before it and the way the next one stops. -/

namespace Sys2Proof.Machine

/-! ## READ_CONTEXT -/

/-- A context register whose valid bit is clear (45_system_configuration.md R167). -/
theorem readContext_unwritten {sel : ContextSel} {s : State} (h : contextValue sel s = none) :
    Ends (.readContext sel) s .unwritten s :=
  Ends.of_raised (r := .raised .unwritten s) (by simp only [exec, execReadContext, h]) rfl rfl

/-- Settles O19: REFCLK is always valid, and the other two registers are read or found unwritten. -/
theorem readContextReturnsTheRegister : Obligations.ReadContextReturnsTheRegister := by
  refine ⟨fun r hop => ?selected, fun s => ⟨readContext_returns rfl, fun v hc => readContext_returns hc,
    fun v hd => readContext_returns hd, fun hc => readContext_unwritten hc, fun hd => readContext_unwritten hd⟩⟩
  case selected => simp [decodeRequest, hop]

/-! ## SET_POWER -/

theorem exec_setPower_up {s : State} (h : s.lc ≠ .uninitialized) (level : Word) :
    exec (.setPower level) s =
      finish ((require (level.toNat ≤ 127) .rangeFault s).bind fun _ s =>
        (propWrite s.cfg.wGPa s.cfg.wIPaPwr [level.setWidth 8] s).bind fun _ s => .done {} s) := by
  rw [exec, execSetPower, requireUp_bind_up h]

/-- Settles O18: out of range before any event, and otherwise one guarded frame. -/
theorem setPowerWritesOneProperty : Obligations.SetPowerWritesOneProperty := by
  refine fun level => ⟨fun r hop => ?selected, RefusedWhenDown.of_gate fun _ => rfl, fun s hs hp => ?outOfRange,
    fun s hs hp => ?sent⟩
  case selected => simp [decodeRequest, hop]
  case outOfRange =>
    refine Ends.of_raised (exec_setPower_up hs level) rfl ?_
    rw [require_neg (by omega), Ran.bind_raised]
  case sent =>
    refine SendsOneFrame.of_issue (exec_setPower_up hs level) ?_ rfl rfl
    rw [require_pos hp, Ran.bind_done, propWrite]
    rfl

/-! ## CONFIGURE, stage by stage -/

/-- What CONFIGURE leaves of its start once bus events have followed the power-up; the select line stays where it was
only if no frame was sent (45_system_configuration.md R165). -/
theorem State.poweredUp_ran (cp : ChipParameters) (rp : RadioParameters) (es : List Event) (rest : List Byte)
    (s : State) :
    (s.poweredUp cp rp).ran es rest =
      { s with
        cp := cp
        rp := rp
        lc := .uninitialized
        sdn := lastLevel .low s.cfg.resetTail
        nsel := if powerupFrames s.cfg cp = [] ∧ es = [] then s.nsel else .high
        rx := rest
        trace := s.trace ++ powerUpEvents s.cfg cp ++ es } := by
  by_cases h : es = [] <;> simp [State.ran, State.poweredUp, h]

/-- The state of CONFIGURE where its frequency set begins: the handshake read `w`, the set-up waits read `ws`, and the
deviation is stored (45_system_configuration.md R165). -/
def State.setUp (cp : ChipParameters) (rp : RadioParameters) (w : List Byte) (ws : List (List Byte)) (rest : List Byte)
    (s : State) : State :=
  { s with
    cp := cp
    rp := rp
    deviation := some rp.deviationHz
    lc := .uninitialized
    sdn := lastLevel .low s.cfg.resetTail
    nsel := .high
    rx := rest
    trace := s.trace ++ powerUpEvents s.cfg cp ++ answered s.cfg w ++
      guardedFrames s.cfg ws ((setupFrames s.cfg cp rp).map frameBytes) }

section
variable {cp : ChipParameters} {rp : RadioParameters} {s : State} {w w' rest : List Byte} {ws : List (List Byte)}

/-- The handshake, the set-up frames and the deviation, in a row, make that state. -/
theorem State.setUp_eq :
    s.setUp cp rp w ws rest =
      ((s.poweredUp cp rp).ran
        (answered s.cfg w ++ guardedFrames s.cfg ws ((setupFrames s.cfg cp rp).map frameBytes)) rest).setDeviation
          rp.deviationHz := by
  simp [State.setUp, State.poweredUp_ran, State.setDeviation]

/-- The frames of the frequency set follow those of the set-up. -/
theorem State.setUp_ran (es : List Event) (rest' : List Byte) :
    (s.setUp cp rp w ws rest).ran es rest' =
      { s.setUp cp rp w ws rest' with trace := (s.setUp cp rp w ws rest').trace ++ es } := by
  simp [State.ran, State.setUp]

/-- CONFIGURE whose power level is in range (45_system_configuration.md R165). -/
theorem exec_configure_inRange (hp : rp.power.toNat ≤ 127) :
    exec (.configure cp rp) s = finish ((configureWith cp rp s).bind fun _ t => .done {} t) := by
  rw [exec, execConfigure, require_pos hp, Ran.bind_done]

/-- CONFIGURE whose handshake times out: the time-out is reported as a power-up failure (60_exceptions.md R193). -/
theorem exec_configure_neverUp (cp : ChipParameters) (hp : rp.power.toNat ≤ 127)
    (hw : NeverAnswered s.cfg.ctsLimit w) (hx : s.rx = w ++ rest) :
    exec (.configure cp rp) s =
      finish (.raised .powerUpFailure ((s.poweredUp cp rp).ran (polls s.cfg w) rest)) := by
  rw [exec_configure_inRange hp, configureWith_eq, waitLoop_never (s := s.poweredUp cp rp) hw hx]
  rfl

/-- CONFIGURE after its answered handshake: the set-up frames come next (45_system_configuration.md R165). -/
theorem exec_configure_up (cp : ChipParameters) (hp : rp.power.toNat ≤ 127) (hw : AnsweredWithin s.cfg.ctsLimit w)
    (hx : s.rx = w ++ 0xFF#8 :: rest) :
    exec (.configure cp rp) s =
      finish ((issueAll (setupFrames s.cfg cp rp) ((s.poweredUp cp rp).ran (answered s.cfg w) rest)).bind fun _ t =>
        (tuneTo rp.carrierHz (t.setDeviation rp.deviationHz)).bind fun _ t =>
        .done {} ((t.setLc .configured).setLc .idle)) := by
  rw [exec_configure_inRange hp, configureWith_eq, waitLoop_answered (s := s.poweredUp cp rp) hw hx]
  simp only [Ran.converting_done, Ran.bind_done, Ran.bind_assoc]
  rfl

/-- CONFIGURE some of whose set-up waits are answered and the next times out (45_system_configuration.md R165). -/
theorem exec_configure_setUp_never (hp : rp.power.toNat ≤ 127) (hw : AnsweredWithin s.cfg.ctsLimit w)
    (hl : ws.length < (setupFrames s.cfg cp rp).length) (hws : ∀ w ∈ ws, AnsweredWithin s.cfg.ctsLimit w)
    (hn : NeverAnswered s.cfg.ctsLimit w') (hx : s.rx = answers (w :: ws) ++ (w' ++ rest)) :
    exec (.configure cp rp) s =
      finish (.raised .busTimeout ((s.poweredUp cp rp).ran
        (answered s.cfg w ++ (guardedFrames s.cfg ws ((setupFrames s.cfg cp rp).map frameBytes) ++ polls s.cfg w'))
        rest)) := by
  rw [exec_configure_up (rest := answers ws ++ (w' ++ rest)) cp hp hw (by simpa using hx),
    issueAll_never (s := (s.poweredUp cp rp).ran _ _) hl hws hn rfl, Ran.bind_raised, State.ran_ran]
  rfl

/-- CONFIGURE after its answered set-up: the frequency set comes next (45_system_configuration.md R165). -/
theorem exec_configure_setUp (hp : rp.power.toNat ≤ 127) (hw : AnsweredWithin s.cfg.ctsLimit w)
    (hl : ws.length = (setupFrames s.cfg cp rp).length) (hws : ∀ w ∈ ws, AnsweredWithin s.cfg.ctsLimit w)
    (hx : s.rx = answers (w :: ws) ++ rest) :
    exec (.configure cp rp) s =
      finish ((tuneTo rp.carrierHz (s.setUp cp rp w ws rest)).bind fun _ t =>
        .done {} ((t.setLc .configured).setLc .idle)) := by
  rw [exec_configure_up (rest := answers ws ++ rest) cp hp hw (by simpa using hx),
    issueAll_answered (s := (s.poweredUp cp rp).ran _ _) hl hws rfl, Ran.bind_done, State.ran_ran, State.setUp_eq]
  rfl

end

/-! ## The ends of CONFIGURE -/

/-- Settles O16: the set-up (`exec_configure_setUp`), then an answered frequency set (`tuneTo_answered`). -/
theorem configureBringsUpTheChip : Obligations.ConfigureBringsUpTheChip := by
  intro cp rp s w ws vs rest hp ht hw hl hws hlv hvs hx
  have hr := exec_configure_setUp (rest := answers vs ++ rest) hp hw hl hws (by simpa using hx)
  rw [tuneTo_answered (s := s.setUp cp rp w ws _) rfl ht hlv hvs rfl, Ran.bind_done, State.setUp_ran] at hr
  exact Ends.of_done hr rfl

/-- Settles O17: each end is the stages before it and the way the next one stops. -/
theorem configureStopsWhereItsRuleSays : Obligations.ConfigureStopsWhereItsRuleSays := by
  refine fun cp rp s => ⟨fun hp => ?power, fun w rest hp hw hx => ?handshake,
    fun w0 ws w rest hp hw0 hl hws hn hx => ?setUp, fun w0 ws rest hp hw0 hl hws ht hx => ?outOfRange,
    fun w0 ws vs w rest hp hw0 hl hws ht hlv hvs hn hx => ?frequencySet⟩
  case power =>
    refine Ends.of_raised rfl rfl ?_
    rw [require_neg (by omega), Ran.bind_raised]
  case handshake =>
    have h := Ends.of_lost (exec_configure_neverUp cp hp hw hx) rfl rfl
    simpa only [State.poweredUp_ran, polls_eq_nil] using h
  case setUp =>
    have h := Ends.of_lost (exec_configure_setUp_never hp hw0 hl hws hn hx) rfl rfl
    simpa [State.poweredUp_ran] using h
  case outOfRange =>
    have hr := exec_configure_setUp hp hw0 hl hws hx
    rw [tuneTo_outOfRange (s := s.setUp cp rp w0 ws rest) rfl ht, Ran.bind_raised] at hr
    exact Ends.of_raised hr rfl rfl
  case frequencySet =>
    have hr := exec_configure_setUp (rest := answers vs ++ (w ++ rest)) hp hw0 hl hws (by simpa using hx)
    rw [tuneTo_never (s := s.setUp cp rp w0 ws _) rfl ht hlv hvs hn rfl, Ran.bind_raised, State.setUp_ran,
      ← List.append_assoc] at hr
    exact Ends.of_lost hr rfl rfl

end Sys2Proof.Machine
end

section
/-! # Result kinds (60_exceptions.md)

How a host operation can stop: which kinds its rule names, and what each kind says of the run before it. This is said once
for every host operation (`exec_stops`), and the statements about refusals, kinds and time-outs are read off it. -/

namespace Sys2Proof.Machine

/-! ## Every instruction ends -/

/-- A wire frame ends as `finishFrame` says (log entry 13). -/
theorem exec_wireFrame {i : Instr} (hi : i.isHostOp = false) (s : State) : ∃ r, exec i s = finishFrame r := by
  cases i
  case wfSetProperty | wfPoll | wfResp | wfChangeState | wfFifoReset | wfIntStatus | wfWriteTxFifo | wfStartTx |
    wfReqState => exact ⟨_, rfl⟩
  all_goals cases hi

/-- Settles O9: host operations and wire frames have an end each, and both ends are a next state. -/
theorem everyInstructionAnswersANextState : Obligations.EveryInstructionAnswersANextState := by
  intro i s
  cases hi : i.isHostOp with
  | true =>
    obtain ⟨r, hr⟩ := exec_hostOp hi s
    exact ⟨r.settle, hr⟩
  | false =>
    obtain ⟨r, hr⟩ := exec_wireFrame hi s
    exact ⟨r.settleFrame, hr⟩

/-! ## Taking a fault -/

theorem losesConfiguration_iff {k : Kind} : losesConfiguration k = true ↔ k = .busTimeout ∨ k = .powerUpFailure := by
  simp [losesConfiguration]

/-- Every gated operation has the lifecycle check at its start (60_exceptions.md R189). -/
theorem refusedWhenDown_of_gated {i : Instr} (hi : gated i = true) : RefusedWhenDown i := by
  obtain ⟨f, hf⟩ := exec_gated hi
  exact .of_gate hf

/-- Settles O50: the fields `State.raise` writes, and the lifecycle check that follows a lost configuration. -/
theorem takingAFaultWritesErrAndLc : Obligations.TakingAFaultWritesErrAndLc := by
  refine fun k s => ⟨⟨Config.freeRet s.ended, Config.freeResp s.ended, ?written⟩, fun hk i hi => ?refused⟩
  case written => simp only [State.raise, losesConfiguration_iff]
  case refused =>
    refine refusedWhenDown_of_gated hi _ ?_
    rw [State.raise_lc, if_pos (losesConfiguration_iff.2 hk)]

/-! ## Which operation raises which kind -/

/-- `i` is an operation with a wait of its own that can time out: a gated one, but neither the raw SEND_COMMAND nor
CW_SPACE, which only holds (40_bus_transport.md R100, 44_modulation_encoder.md R159). -/
structure Waits (i : Instr) : Prop where
  gated : gated i = true
  ne_sendCommand : ∀ c bs, i ≠ .sendCommand c bs
  ne_cwSpace : ∀ u, i ≠ .cwSpace u

/-- `i` has a check of an operand, of the context or of its count that stops it with the kind `k`
(60_exceptions.md R181). -/
inductive CheckedBy : Instr → Kind → Prop
  | setReferenceClock (hz : Word) : CheckedBy (.setReferenceClock hz) .invalidParameter
  | waitTxComplete (n : Word) : CheckedBy (.waitTxComplete n) .txTimeout
  | sendCommand (c : Word) (bs : List Byte) : CheckedBy (.sendCommand c bs) .rangeFault
  | setTxFrequency (f : Word) : CheckedBy (.setTxFrequency f) .rangeFault
  | setDeviation (d : Word) : CheckedBy (.setDeviation d) .rangeFault
  | setFrequencyOffset (o : Word) : CheckedBy (.setFrequencyOffset o) .rangeFault
  | setPower (l : Word) : CheckedBy (.setPower l) .rangeFault
  | configure (cp : ChipParameters) (rp : RadioParameters) : CheckedBy (.configure cp rp) .rangeFault
  | startTx (bs : List Byte) : CheckedBy (.startTx bs) .rangeFault
  | fsk4WriteByte (b : Word) : CheckedBy (.fsk4WriteByte b) .rangeFault
  | setTxFrequency_unwritten (f : Word) : CheckedBy (.setTxFrequency f) .unwritten
  | calcDeviation (d : Word) : CheckedBy (.calcDeviation d) .unwritten
  | setDeviation_unwritten (d : Word) : CheckedBy (.setDeviation d) .unwritten
  | readContext (sel : ContextSel) : CheckedBy (.readContext sel) .unwritten

/-- How `i`, begun at `s`, may stop with a kind at `t`: at its lifecycle check, at a check of its own, or, with the
configuration lost, at a wait that spent its whole budget; in CONFIGURE the handshake's wait reports another kind
(60_exceptions.md R181, R182, R184, R189). -/
inductive Stops (i : Instr) (s : State) : Kind → State → Prop
  | refused {t : State} (hi : gated i = true) (hs : s.lc = .uninitialized) : Stops i s .refused t
  | checked {k : Kind} {t : State} (hi : CheckedBy i k) : Stops i s k t
  | timedOut {t : State} (hi : Waits i) (hg : GaveUp (waitBudget s.cfg i) s t) : Stops i s .busTimeout t
  | handshake {cp : ChipParameters} {rp : RadioParameters} {t : State} (hi : i = .configure cp rp)
    (hg : GaveUp (waitBudget s.cfg i) s t) : Stops i s .powerUpFailure t
  | setUp {cp : ChipParameters} {rp : RadioParameters} {t : State} (hi : i = .configure cp rp)
    (hg : GaveUp (waitBudget s.cfg i) s t) : Stops i s .busTimeout t

/-- The end of an operation adds nothing to what its body did. -/
theorem Stops.raise {i : Instr} {s t : State} {k : Kind} (h : Stops i s k t) : Stops i s k (t.raise k) := by
  cases h with
  | refused hi hs => exact .refused hi hs
  | checked hi => exact .checked hi
  | timedOut hi hg => exact .timedOut hi hg
  | handshake hi hg => exact .handshake hi hg
  | setUp hi hg => exact .setUp hi hg

/-- Only a wait that spent its budget loses the configuration (60_exceptions.md R182, R184). -/
theorem Stops.gaveUp {i : Instr} {s t : State} {k : Kind} (h : Stops i s k t)
    (hk : k = .busTimeout ∨ k = .powerUpFailure) : GaveUp (waitBudget s.cfg i) s t := by
  cases h with
  | refused => simp at hk
  | checked hi => rcases hk with rfl | rfl <;> cases hi
  | timedOut _ hg => exact hg
  | handshake _ hg => exact hg
  | setUp _ hg => exact hg

/-! ## Bodies that stop only at a wait -/

/-- The body `r`, begun at `s`, stops only by a wait that spent the budget `b`, and otherwise ends where a new wait may
begin. -/
def Ran.Waited {α : Type} (b : Params → Nat) (s : State) (r : Ran α) : Prop :=
  r.All (fun _ t => Went (fun _ => True) s t) (fun k t => k = .busTimeout ∧ GaveUp (b s.cfg) s t)

/-- The budget of the waits an operation makes by itself (40_bus_transport.md R103). -/
abbrev ctsBudget (p : Params) : Nat := p.ctsLimit

theorem Went.any {A : List Event → Prop} {s t : State} (h : Went A s t) : Went (fun _ => True) s t :=
  ⟨h.toGrew.any, h.settled⟩

section
variable {α β : Type} {b : Params → Nat} {s t : State} {r : Ran α}

theorem Ran.Waited.of_done (h : Went (fun _ => True) s t) (a : α) : (Ran.done a t).Waited b s := h

/-- A part of a body, from where the part before it ended. -/
theorem Ran.Waited.after (ht : Went (fun _ => True) s t) (h : r.Waited b t) : r.Waited b s :=
  h.mono (fun _ _ => ht.trans) (fun _ _ ⟨hk, hg⟩ => ⟨hk, .after ht (ht.cfg ▸ hg)⟩)

/-- A body in two parts. -/
theorem Ran.Waited.bind {f : α → State → Ran β} (h : r.Waited b s) (hf : ∀ a t, (f a t).Waited b t) :
    (r.bind f).Waited b s :=
  h.next (fun a t ht => (hf a t).after ht) (fun _ _ h => h)

/-- A part of a body that only waits and sends frames, as the laws of the shared bodies state it. -/
theorem Ran.Waited.of_quiet {A : List Event → Prop}
    (h : r.All (fun _ t => Went A s t ∧ Kept s t)
      (fun k t => k = .busTimeout ∧ Grew A s t ∧ Kept s t ∧ GaveUp (b s.cfg) s t)) : r.Waited b s :=
  h.mono (fun _ _ ⟨hw, _⟩ => hw.any) (fun _ _ ⟨hk, _, _, hg⟩ => ⟨hk, hg⟩)

end

theorem readResponse_waited (n limit : Nat) (s : State) : (readResponse n limit s).Waited (fun _ => limit) s :=
  (readResponse_all (fun _ => True) n limit s).mono (fun _ _ ⟨_, hw, _⟩ => hw) (fun _ _ ⟨hk, _, _, hg⟩ => ⟨hk, hg⟩)

theorem issue_waited (opcode : Byte) (payload : List Byte) (s : State) : (issue opcode payload s).Waited ctsBudget s :=
  .of_quiet (issue_all (A := fun _ => True) opcode payload s trivial)

theorem commandState_waited (target : OpState) (s : State) : (commandState target s).Waited ctsBudget s :=
  (issue_waited _ _ s).bind fun _ t => .of_done (went_setLc _ _ t) ()

theorem checkUnderflow_waited (s : State) : (checkUnderflow s).Waited ctsBudget s :=
  (checkUnderflow_all s).mono (fun _ _ ⟨hw, _⟩ => hw) (fun _ _ ⟨hk, _, _, hg⟩ => ⟨hk, hg⟩)

theorem clearFifo_waited (s : State) : (clearFifo s).Waited ctsBudget s :=
  (checkUnderflow_waited s).bind fun _ t => issue_waited _ _ t

theorem queryState_waited (s : State) : (queryState s).Waited ctsBudget s := .of_quiet (queryState_all s)

theorem doneLoop_waited (n : Nat) (s : State) : (doneLoop n s).Waited ctsBudget s := .of_quiet (doneLoop_all n s)

theorem sendSymbols_waited (ys : List (BitVec 2)) (s : State) : (sendSymbols ys s).Waited ctsBudget s :=
  .of_quiet (sendSymbols_all ys s)

/-- START_TX after its checks (43_fifo_tx_engine.md R142). -/
theorem startTx_waited (buffer : List Byte) (s : State) :
    ((clearFifo s).bind fun _ s =>
      (issue s.cfg.wWriteTxFifo (memReads buffer (min buffer.length 64)) s).bind fun _ s =>
      (issue s.cfg.wStartTx (startTxPayload s.cfg buffer.length) s).bind fun _ s =>
      Ran.done ({ ret := some (BitVec.ofNat 32 (min buffer.length 64)) } : Result) (s.setLc .transmitting)).Waited
      ctsBudget s :=
  (clearFifo_waited s).bind fun _ _ => (issue_waited _ _ _).bind fun _ _ => (issue_waited _ _ _).bind fun _ t =>
    .of_done (went_setLc _ .transmitting t) _

/-- CW_MARK's two state commands, with the hold between them (44_modulation_encoder.md R158). -/
theorem cwMark_waited (units : Word) (s : State) :
    ((commandState .transmitting s).bind fun _ t =>
      (commandState .ready (t.emit (.dlyMs (units.toNat * dotMs t.cfg)))).bind fun _ u =>
      Ran.done ({} : Result) u).Waited ctsBudget s :=
  (commandState_waited .transmitting s).bind fun _ t =>
    .after (went_emit_dlyMs _ _ t) ((commandState_waited .ready _).bind fun _ u => .of_done (Went.refl _ u) _)

/-! ## How the body of an operation stops -/

/-- The body `r` of `i`, begun at `s`, stops only as `Stops` says. -/
def Ran.Stopping {α : Type} (i : Instr) (s : State) (r : Ran α) : Prop := r.All (fun _ _ => True) (Stops i s)

/-- An operation that did not end in OK stopped as its body did. -/
theorem finish_stops {i : Instr} {s t : State} {r : Ran Result} (ht : finish r = .next t) (he : t.err ≠ .ok)
    (h : r.Stopping i s) : Stops i s t.err t := by
  rcases settle_cases h ht with ⟨v, u, -, rfl⟩ | ⟨k, u, hk, rfl⟩
  · exact absurd rfl he
  · exact hk.raise

section
variable {α β : Type} {i : Instr} {s : State}

/-- A body that only yields a value. -/
theorem Ran.Stopping.of_done (i : Instr) (s : State) (a : α) (t : State) : (Ran.done a t).Stopping i s := trivial

/-- A body that stops at a check. -/
theorem Ran.Stopping.of_check {k : Kind} (hi : CheckedBy i k) (s t : State) : (Ran.raised (α := α) k t).Stopping i s :=
  Stops.checked hi

/-- A piece that yields a result from what ran before it. -/
theorem Ran.Stopping.result {r : Ran α} (h : r.Stopping i s) (f : α → State → β) :
    (r.bind fun a t => .done (f a t) t).Stopping i s :=
  h.next (fun _ _ _ => trivial) (fun _ _ h => h)

/-- A check before a body. -/
theorem Ran.Stopping.require {c : Bool} {k : Kind} {f : Unit → State → Ran α} (hi : CheckedBy i k)
    (h : (f () s).Stopping i s) : ((require c k s).bind f).Stopping i s := by
  cases c with
  | true => exact h
  | false => exact .of_check hi s s

/-- The lifecycle check before a body (60_exceptions.md R189). -/
theorem Ran.Stopping.gate {f : Unit → State → Ran α} (hi : gated i = true) (h : (f () s).Stopping i s) :
    ((requireUp s).bind f).Stopping i s := by
  by_cases hs : s.lc = .uninitialized
  · rw [requireUp_down hs]
    exact Stops.refused hi hs
  · rwa [requireUp_bind_up hs]

/-- A body that stops only at a wait of its operation's budget. -/
theorem Ran.Stopping.of_waited {r : Ran α} (hi : Waits i) (h : r.Waited (waitBudget · i) s) : r.Stopping i s :=
  h.mono (fun _ _ _ => trivial) (fun _ _ ⟨hk, hg⟩ => hk ▸ .timedOut hi hg)

end

/-- SET_TX_FREQUENCY's body (42_frequency_synthesizer.md R125). -/
theorem tuneTo_stopping (f : Word) (s : State) : (tuneTo f s).Stopping (.setTxFrequency f) s := by
  refine (tuneTo_all f s).mono (fun _ _ _ => trivial) ?_
  rintro k t ⟨-, -, -, -, -, ⟨rfl, -⟩ | ⟨rfl, -⟩ | ⟨rfl, hg⟩⟩
  · exact .checked (.setTxFrequency_unwritten f)
  · exact .checked (.setTxFrequency f)
  · exact .timedOut ⟨rfl, nofun, nofun⟩ hg

/-- SET_DEVIATION's body (42_frequency_synthesizer.md R128). -/
theorem deviateBy_stopping (d : Word) (s : State) : (deviateBy d s).Stopping (.setDeviation d) s := by
  refine (deviateBy_all d s).mono (fun _ _ _ => trivial) ?_
  rintro k t ⟨-, -, -, -, -, ⟨rfl, -⟩ | ⟨rfl, -⟩ | ⟨rfl, hg⟩⟩
  · exact .checked (.setDeviation_unwritten d)
  · exact .checked (.setDeviation d)
  · exact .timedOut ⟨rfl, nofun, nofun⟩ hg

/-- SET_FREQUENCY_OFFSET's body (42_frequency_synthesizer.md R130). -/
theorem writeOffset_stopping (offset : Word) (s : State) :
    (writeOffset offset.toNat s).Stopping (.setFrequencyOffset offset) s :=
  .require (.setFrequencyOffset offset) (.of_waited ⟨rfl, nofun, nofun⟩ (issue_waited _ _ s))

/-- FSK4_IDLE's offset 0 passes its range check (44_modulation_encoder.md R155). -/
theorem writeOffset_zero_waited (s : State) : (writeOffset 0 s).Waited ctsBudget s := by
  rw [writeOffset, require_pos (by decide)]
  exact issue_waited _ _ s

/-- WAIT_TX_COMPLETE: its queries, and the sleep command after the count (43_fifo_tx_engine.md R144). -/
theorem waitTxComplete_stopping (timeoutMs : Word) (s : State) :
    ((doneLoop timeoutMs.toNat s).bind afterDoneLoop).Stopping (.waitTxComplete timeoutMs) s := by
  have hi : Waits (.waitTxComplete timeoutMs) := ⟨rfl, nofun, nofun⟩
  refine (doneLoop_waited _ s).next (fun isDone t ht => ?_) (fun _ _ ⟨hk, hg⟩ => hk ▸ .timedOut hi hg)
  cases isDone with
  | true => trivial
  | false =>
    exact ((commandState_waited .sleep t).after ht).next (fun _ _ _ => .checked (.waitTxComplete timeoutMs))
      (fun _ _ ⟨hk, hg⟩ => hk ▸ .timedOut hi hg)

/-- No wait is under way when CONFIGURE's handshake begins (45_system_configuration.md R165). -/
theorem GaveUp.of_poweredUp {n : Nat} {cp : ChipParameters} {rp : RadioParameters} {s t : State}
    (h : GaveUp n (s.poweredUp cp rp) t) : GaveUp n s t := by
  obtain ⟨es, w, hw, ht, hf, hp⟩ := h
  exact ⟨powerUpEvents s.cfg cp ++ es, w, hw, by rw [ht]; simp [State.poweredUp],
    framed_append (framed_powerUpEvents _ _) hf,
    noFailedPollLast_append (framed_powerUpEvents _ _) (noFailedPollLast_powerUpEvents _ _) hp⟩

/-- CONFIGURE after its power check (45_system_configuration.md R165). -/
theorem configureWith_stopping (cp : ChipParameters) (rp : RadioParameters) (s : State) :
    (configureWith cp rp s).Stopping (.configure cp rp) s := by
  refine (configureWith_all cp rp s).mono (fun _ _ _ => trivial) ?_
  rintro k t ⟨-, -, -, -, -, rfl | ⟨rfl | rfl, hg⟩⟩
  · exact .checked (.configure cp rp)
  · exact .handshake rfl hg.of_poweredUp
  · exact .setUp rfl hg.of_poweredUp

/-! ## Every host operation -/

/-- The operations whose waits can time out. -/
theorem exec_waits_stops {i : Instr} {s t : State} (hi : Waits i) (h : exec i s = .next t) (he : t.err ≠ .ok) :
    Stops i s t.err t := by
  have hg := hi.gated
  cases i with
  | setPower level =>
    exact finish_stops h he (.gate hg (.require (.setPower level) (.result (.of_waited hi (issue_waited _ _ s)) _)))
  | sendCommand opcode payload => exact absurd rfl (hi.ne_sendCommand opcode payload)
  | waitCts limit =>
    exact finish_stops h he (.gate hg (.result (.of_waited hi (.of_quiet (waitLoop_all (fun _ => True) _ s))) _))
  | readResponse length limit =>
    exact finish_stops h he (.gate hg (.result (.of_waited hi (readResponse_waited _ _ s)) _))
  | setState target => exact finish_stops h he (.gate hg (.result (.of_waited hi (commandState_waited target s)) _))
  | enableTx => exact finish_stops h he (.gate hg (.result (.of_waited hi (commandState_waited .transmitting s)) _))
  | inhibitTx => exact finish_stops h he (.gate hg (.result (.of_waited hi (commandState_waited .ready s)) _))
  | disableTx => exact finish_stops h he (.gate hg (.result (.of_waited hi (commandState_waited .sleep s)) _))
  | setTxFrequency freqHz => exact finish_stops h he (.gate hg (.result (tuneTo_stopping freqHz s) _))
  | setDeviation deviationHz => exact finish_stops h he (.gate hg (.result (deviateBy_stopping deviationHz s) _))
  | setFrequencyOffset offset => exact finish_stops h he (.gate hg (.result (writeOffset_stopping offset s) _))
  | checkClearUnderflow => exact finish_stops h he (.gate hg (.result (.of_waited hi (checkUnderflow_waited s)) _))
  | clearFifo => exact finish_stops h he (.gate hg (.result (.of_waited hi (clearFifo_waited s)) _))
  | startTx buffer =>
    exact finish_stops h he (.gate hg (.require (.startTx buffer) (.of_waited hi (startTx_waited buffer s))))
  | waitTxComplete timeoutMs => exact finish_stops h he (.gate hg (waitTxComplete_stopping timeoutMs s))
  | requestDeviceState => exact finish_stops h he (.gate hg (.result (.of_waited hi (queryState_waited s)) _))
  | fsk4Write buffer =>
    exact finish_stops h he (.gate hg (.result (.of_waited hi (writeBytes_eq buffer s ▸ sendSymbols_waited _ s)) _))
  | fsk4WriteByte b =>
    exact finish_stops h he (.gate hg (.require (.fsk4WriteByte b)
      (.result (.of_waited hi (sendSymbols_waited _ s)) _)))
  | fsk4Preamble n =>
    exact finish_stops h he (.gate hg (.result
      (.of_waited hi (repeatByte_eq trainingByte n.toNat s ▸ sendSymbols_waited _ s)) _))
  | fsk4Idle => exact finish_stops h he (.gate hg (.result (.of_waited hi (writeOffset_zero_waited s)) _))
  | cwMark units => exact finish_stops h he (.gate hg (.of_waited hi (cwMark_waited units s)))
  | cwSpace units => exact absurd rfl (hi.ne_cwSpace units)
  | configure | readContext | selectOutdiv | selectBand | calcDeviation | setReferenceClock => cases hg
  | wfSetProperty | wfPoll | wfResp | wfChangeState | wfFifoReset | wfIntStatus | wfWriteTxFifo | wfStartTx |
    wfReqState => cases hg

/-- CONFIGURE, and the operations that cannot time out. -/
theorem exec_not_waits_stops {i : Instr} {s t : State} (hi : i.isHostOp = true) (hw : ¬ Waits i)
    (h : exec i s = .next t) (he : t.err ≠ .ok) : Stops i s t.err t := by
  cases i
  case configure cp rp =>
    exact finish_stops h he (.require (.configure cp rp) (.result (configureWith_stopping cp rp s) _))
  case readContext sel =>
    refine finish_stops h he ?_
    cases contextValue sel s with
    | none => exact .of_check (.readContext sel) s s
    | some v => exact .of_done _ s _ s
  case sendCommand opcode payload =>
    exact finish_stops h he (.gate rfl (.require (.sendCommand opcode payload) (.of_done _ s _ _)))
  case selectOutdiv freqHz => exact finish_stops h he (.of_done _ s _ s)
  case selectBand freqHz => exact finish_stops h he (.of_done _ s _ s)
  case calcDeviation deviationHz =>
    refine finish_stops h he ?_
    cases s.carrier with
    | none => exact .of_check (.calcDeviation deviationHz) s s
    | some c => exact .of_done _ s _ s
  case setReferenceClock hz =>
    exact finish_stops h he (.require (.setReferenceClock hz) (.of_done _ s _ _))
  case cwSpace units => exact finish_stops h he (.gate rfl (.of_done _ s _ _))
  case wfSetProperty | wfPoll | wfResp | wfChangeState | wfFifoReset | wfIntStatus | wfWriteTxFifo | wfStartTx |
    wfReqState => cases hi
  all_goals exact absurd ⟨rfl, nofun, nofun⟩ hw

/-- A host operation that ends in a kind other than OK stopped as `Stops` says (60_exceptions.md R181). -/
theorem exec_stops {i : Instr} {s t : State} {k : Kind} (hi : i.isHostOp = true) (h : exec i s = .next t)
    (hk : t.err = k) (he : k ≠ .ok) : Stops i s k t := by
  subst hk
  by_cases hw : Waits i
  · exact exec_waits_stops hw h he
  · exact exec_not_waits_stops hi hw h he

/-- A refused host operation is a gated one, at a state that is down (60_exceptions.md R189). -/
theorem exec_refused {i : Instr} {s t : State} (hi : i.isHostOp = true) (h : exec i s = .next t)
    (he : t.err = .refused) : gated i = true ∧ s.lc = .uninitialized := by
  cases exec_stops hi h he (by decide) with
  | refused hg hd => exact ⟨hg, hd⟩
  | checked hk => cases hk

/-- Settles O48: the lifecycle check, the only way to a refusal (`exec_refused`), and the reserved codes of O5. -/
theorem gatedOperationsAreRefused : Obligations.GatedOperationsAreRefused := by
  refine ⟨fun i hi => refusedWhenDown_of_gated hi, fun i s t hi hg h he => ?ungated, fun i s t hs h hi he => ?up,
    reservedCodeIsRefused⟩
  case ungated => simp [(exec_refused hi h he).1] at hg
  case up => exact hs (exec_refused hi h he).2

/-- Settles O49: `exec_stops`, with the rows of `CheckedBy` for the kinds of checks. -/
theorem kindsComeOnlyFromTheirOperations : Obligations.KindsComeOnlyFromTheirOperations := by
  intro i s t hi h
  refine ⟨fun he => ?invalidParameter, fun he => ?powerUpFailure, fun he => ?txTimeout, fun he => ?rangeFault,
    fun he => ?unwritten, fun he => (exec_refused hi h he).1, fun he => ?busTimeout⟩
  case invalidParameter =>
    cases exec_stops hi h he (by decide) with
    | checked hk => cases hk; simp
  case powerUpFailure =>
    cases exec_stops hi h he (by decide) with
    | checked hk => cases hk
    | handshake hc => exact ⟨_, _, hc⟩
  case txTimeout =>
    cases exec_stops hi h he (by decide) with
    | checked hk => cases hk; simp
  case rangeFault =>
    cases exec_stops hi h he (by decide) with
    | checked hk => cases hk <;> simp
  case unwritten =>
    cases exec_stops hi h he (by decide) with
    | checked hk => cases hk <;> simp
  case busTimeout =>
    cases exec_stops hi h he (by decide) with
    | checked hk => cases hk
    | timedOut hw => exact .inr ⟨hw.gated, hw.ne_sendCommand, hw.ne_cwSpace⟩
    | setUp hc => exact .inl ⟨_, _, hc⟩

/-- Settles O51: the two kinds that lose the configuration come from a wait that gave up (`Stops.gaveUp`). -/
theorem timeoutsFollowAWholeBudgetOfPolls : Obligations.TimeoutsFollowAWholeBudgetOfPolls := by
  intro i s t hi h he
  have hok : t.err ≠ .ok := by rcases he with he | he <;> simp [he]
  exact ⟨lc_of_lost hi h he, (exec_stops hi h rfl hok).gaveUp he⟩

end Sys2Proof.Machine
end

section
/-! # Reset and hazards (70_reset_and_hazards.md)

What the RCB does without a request and while it is down, and how many events its polling and 4FSK operations add. -/

namespace Sys2Proof.Machine

/-! ## Without a request, and down -/

/-- Settles O2, by `step_nil`. -/
theorem waitsWithoutARequest : Obligations.WaitsWithoutARequest :=
  fun _ hp => step_nil hp

/-- Settles O52: a gated operation is refused, and of the others only CONFIGURE acts. -/
theorem onlyConfigureActsWhileDown : Obligations.OnlyConfigureActsWhileDown := by
  intro i s t hi hc hs h
  cases hg : gated i with
  | true =>
    rw [exec_gated_down hg hs h]
    exact ⟨rfl, hs⟩
  | false => simpa [hs] using exec_ungated hi hg hc h

/-! ## How many events an operation adds -/

/-- Two laws of one body, together. -/
theorem Ran.All.and {α : Type} {P P' : α → State → Prop} {Q Q' : Kind → State → Prop} {r : Ran α} (h : r.All P Q)
    (h' : r.All P' Q') : r.All (fun a t => P a t ∧ P' a t) (fun k t => Q k t ∧ Q' k t) := by
  cases r <;> exact ⟨h, h'⟩

/-- A wait adds at most one poll for each unit of its budget (40_bus_transport.md R101). -/
theorem waitLoop_length (n : Nat) (s : State) :
    (waitLoop n s).All (fun _ t => t.trace.length ≤ s.trace.length + 4 * n)
      (fun _ t => t.trace.length ≤ s.trace.length + 4 * n) := by
  rcases waitLoop_cases n s with ⟨w, t, ⟨hl, -⟩, ht, hr⟩ | ⟨w, t, ⟨hl, -⟩, ht, hr⟩
  · rw [hr, Ran.all_done, ht.trace, List.length_append, answered, length_polls, List.length_append,
      List.length_singleton]
    omega
  · rw [hr, Ran.all_raised, ht.trace, List.length_append, length_polls, hl]

/-- WAIT_CTS adds no more than its wait does, and nothing while LC is Uninitialized (40_bus_transport.md R101). -/
theorem exec_waitCts_length {limit : Word} {s t : State} (h : exec (.waitCts limit) s = .next t) :
    t.trace.length ≤ s.trace.length + 4 * limit.toNat := by
  by_cases hs : s.lc = .uninitialized
  · rw [exec_gated_down rfl hs h, State.raise_trace]
    omega
  · rw [exec_waitCts_up hs] at h
    have hbody : ((waitLoop limit.toNat s).bind fun _ t => .done ({} : Result) t).All
        (fun _ u => u.trace.length ≤ s.trace.length + 4 * limit.toNat)
        (fun _ u => u.trace.length ≤ s.trace.length + 4 * limit.toNat) :=
      (waitLoop_length _ s).bind fun _ _ hu => hu
    rcases settle_cases hbody h with ⟨v, u, hu, rfl⟩ | ⟨k, u, hu, rfl⟩ <;> exact hu

/-- Each byte is four symbols (44_modulation_encoder.md R150). -/
theorem length_flatMap_symbolsOf (buffer : List Byte) : (buffer.flatMap symbolsOf).length = 4 * buffer.length := by
  simp [List.length_flatMap, symbolsOf, Nat.mul_comm]

/-- FSK4_WRITE adds the events of its symbols: all their holds where it ends in OK, and no more than that otherwise
(44_modulation_encoder.md R153). -/
theorem exec_fsk4Write_sentSymbols {buffer : List Byte} {s t : State} (h : exec (.fsk4Write buffer) s = .next t) :
    ∃ k ≤ 4 * buffer.length, SentSymbols (4 * buffer.length) k s t ∧ (t.err = .ok → k = 4 * buffer.length) := by
  by_cases hs : s.lc = .uninitialized
  · rw [exec_gated_down rfl hs h]
    exact ⟨0, by omega, ⟨rfl, [], by simp⟩, fun he => by simp at he⟩
  · rw [exec_fsk4Write_up hs] at h
    have hbody : ((sendSymbols (buffer.flatMap symbolsOf) s).bind fun _ t => .done ({} : Result) t).All
        (fun _ u => SentSymbols (4 * buffer.length) (4 * buffer.length) s u)
        (fun k u => (∃ n ≤ 4 * buffer.length, SentSymbols (4 * buffer.length) n s u) ∧ k = .busTimeout) := by
      have hcounts := sendSymbols_counts (buffer.flatMap symbolsOf) s
      rw [length_flatMap_symbolsOf] at hcounts
      exact (hcounts.and (sendSymbols_all _ s)).next (fun _ _ ⟨hu, _⟩ => hu) (fun _ _ ⟨hu, hk, _⟩ => ⟨hu, hk⟩)
    rcases settle_cases hbody h with ⟨v, u, hu, rfl⟩ | ⟨k, u, ⟨⟨n, hn, hu⟩, rfl⟩, rfl⟩
    · exact ⟨_, le_rfl, hu, fun _ => rfl⟩
    · exact ⟨n, hn, hu, fun he => by simp at he⟩

/-- Settles O58: the polls of one wait, and the frames and holds of a buffer's symbols. -/
theorem eventCountsAreBounded : Obligations.EventCountsAreBounded := by
  refine ⟨fun limit s t h => exec_waitCts_length h, fun buffer s t h => ?_⟩
  obtain ⟨k, hk, ⟨-, es, he, rfl, hl⟩, hok⟩ := exec_fsk4Write_sentSymbols h
  exact ⟨es, he, hl, hk, hok⟩

end Sys2Proof.Machine
end
